-- ==== Sys2Proof/Word.lean ====
section
/-! DEFINITION. The word type and the vector type of the CTH core (spec/00_scope.md R6, R10, R11). -/

namespace Sys2Proof

/-- A register, memory word or port data word: 32 bits (R6, `W = 32`). -/
abbrev Word := BitVec 32

/-- A bit vector `[v[0], …, v[L−1]]` over GF(2), element 0 first (R11). -/
abbrev Vec := List Bool

end Sys2Proof
end

