-- ==== Sys2Proof/Config.lean ====
section
/-! DEFINITION. What the build fixes by default, and the free values: opaque constants, so that no proof can see a value. -/

namespace Sys2Proof

/-- The spec's default ceiling `N_MAX = 16` (R7, R9), as `N_MAX − 1`. Only `State.reset` uses it: `N_MAX` is a field of
the state, so every statement about all states holds for every `N_MAX` from 1 to 32 (log 1, DESIGN CHOICE). -/
def Config.defaultLastRow : Fin 32 := 15

/-- The RND stream `rho` (R9, R102): the bit at a cursor position. A draw under no law (log 6). -/
opaque Config.rho : Nat → Bool

/-- What a GMEM or HMEM row reads as while nothing has written it since reset (R52, U1): any value, drawn anew at each
read. The first argument numbers the draw, the second is the row's word address (log 7). -/
opaque Config.unwrittenRow : Nat → Nat → Word

/-- What a host read of a register other than `STATUS` returns while a command runs (R66, U2): any value (log 8). -/
opaque Config.busyRead : Nat → Word

/-- How many RND bits an abandoned GEN_G has consumed when `rst` comes (R202), before it is bounded by the number the
command asks for (log 10). -/
opaque Config.abandonedBits : Nat → Nat

end Sys2Proof
end

