-- ==== Sys2Proof/Syntax.lean ====
section
/-! DEFINITION. The commands of the CTH core: one constructor per row of spec/opcode_table.json (R82). No command has an
operand field (R80, R81). -/

namespace Sys2Proof

/-- The seven commands, in the order of their opcodes (R82). -/
inductive Instr where
  /-- GEN_G, `GenerateGenerator(n, k)` (R101). -/
  | genG
  /-- DERIVE_H, `GenerateParityCheck(G)` (R111). -/
  | deriveH
  /-- BUILD_TABLE, `BuildSyndromeTable(n, k, H)` (R121). -/
  | buildTable
  /-- DECODE, `Decode(r, H, table)` (R136). -/
  | decode
  /-- GET_PRIMARY, `GetPrimaryVector(k, v)` (R143). -/
  | getPrimary
  /-- CNT_ERR, `CountErrors(a, b)` (R156). -/
  | cntErr
  /-- ERR_POS, `ErrorPositions(a, b)` (R158). -/
  | errPos
  deriving DecidableEq, Repr

end Sys2Proof
end

