-- ==== Sys2Proof/WellFormed.lean ====
section
/-! DEFINITION. Well-formedness: of the two fields of a command word (format C, R80), and of a command as syntax. -/

namespace Sys2Proof

/-- The fields of a command word, format C (R80): `rsv` bits 31:4, `op` bits 3:0. -/
structure CommandFields where
  rsv : BitVec 28
  op  : BitVec 4
  deriving DecidableEq, Repr

/-- "reserved, must be 0" (R80). -/
def CommandFields.reservedClear (f : CommandFields) : Bool := f.rsv == 0

/-- `op = 0` is illegal (R84). -/
def CommandFields.opNonzero (f : CommandFields) : Bool := f.op != 0

/-- `op ≥ 8` is illegal (R84). -/
def CommandFields.opBelowEight (f : CommandFields) : Bool := f.op.toNat < 8

/-- A field pair is a command word of R82 iff all three checks pass. -/
def CommandFields.wellFormed (f : CommandFields) : Bool := f.reservedClear && f.opNonzero && f.opBelowEight

/-- A command has no operand (R81: "Every operand is implicit"), so every term of `Instr` is well formed. -/
def Instr.wellFormed : Instr → Bool
  | .genG => true
  | .deriveH => true
  | .buildTable => true
  | .decode => true
  | .getPrimary => true
  | .cntErr => true
  | .errPos => true

end Sys2Proof
end

