-- ==== Sys2Proof/Decode.lean ====
section
/-! DEFINITION. The decoder, total on every 32-bit word and rejecting by name (R83, R84), and after it the encoder. -/

namespace Sys2Proof

/-- Why a word is no command (R84). -/
inductive DecodeError where
  /-- `rsv ≠ 0`. -/
  | reservedBitsSet
  /-- `op = 0`, or `op ≥ 8`. -/
  | unusedOpcode
  deriving DecidableEq, Repr

/-- The two fields of a word (R80). -/
def fieldsOf (w : Word) : CommandFields := { rsv := w.extractLsb' 4 28, op := w.extractLsb' 0 4 }

/-- The word with the given fields (R80): `{rsv, op}`. -/
def wordOfFields (f : CommandFields) : Word := f.rsv ++ f.op

/-- The opcode map (R82). -/
def opcodeMap : List (BitVec 4 × Instr) :=
  [(1, .genG), (2, .deriveH), (3, .buildTable), (4, .decode), (5, .getPrimary), (6, .cntErr), (7, .errPos)]

/-- The command a word encodes, or the reason it is illegal (R82 to R84). -/
def decode (w : Word) : Except DecodeError Instr :=
  let f := fieldsOf w
  if f.rsv ≠ 0 then .error .reservedBitsSet
  else match opcodeMap.lookup f.op with
    | some i => .ok i
    | none => .error .unusedOpcode

/-- The command a word encodes, if any. -/
def commandOf (w : Word) : Option Instr :=
  match decode w with
  | .ok i => some i
  | .error _ => none

/-- The opcode of a command (R82). -/
def opcodeOf : Instr → BitVec 4
  | .genG => 1
  | .deriveH => 2
  | .buildTable => 3
  | .decode => 4
  | .getPrimary => 5
  | .cntErr => 6
  | .errPos => 7

/-- The command word of a command: `rsv = 0` and its opcode (R80, R82). -/
def encode (i : Instr) : Word := wordOfFields { rsv := 0, op := opcodeOf i }

/-- The 32-bit word whose bits are those of `w` below `nbits`, the rest 0. -/
def tableWord (nbits w : Nat) : Word := BitVec.ofNat 32 (w % 2 ^ nbits)

/-- What the decoder reads from an instruction whose bits are `w`, numbered as spec/opcode_table.json numbers them. A
command is one word, handed over whole (R80, R72), so nothing has to be laid out in bytes. -/
def decodeTableWord (nbits w : Nat) : Option Instr := commandOf (tableWord nbits w)

end Sys2Proof
end

