-- ==== Sys2Proof/Machine/State.lean ====
section
/-! DEFINITION. The state of the CTH core as plain data: every register, flag and memory of spec/10_state.md, the
sequencer's latched command word, the ports of R45 and R46, and the environment's next inputs. -/

namespace Sys2Proof.Machine

/-- A word memory as a list of (address, value) pairs, addresses strictly rising (`Memory.wf`). The unit is the spec's
smallest addressable unit: the word, or the table entry (R60, R67, R68; log 13). An unlisted address holds nothing: a row
nothing has written since reset (R52), or a table entry that is not valid (R40). -/
abbrev Memory (α : Type) := List (Nat × α)

/-- `STATUS.ERR` (R25, R176); the values 5 to 7 "never occur". -/
inductive ErrKind where
  /-- 0 -/
  | noError
  /-- 1 -/
  | validationError
  /-- 2 -/
  | configurationError
  /-- 3 -/
  | internalInvariantError
  /-- 4 -/
  | illegalCommand
  deriving DecidableEq, Repr

/-- Sub-causes of a ValidationError (R27, R178). -/
inductive SubCause where
  /-- The dimension registers do not satisfy `0 < K ≤ N ≤ N_MAX`. -/
  | dim
  /-- A needed matrix is not marked valid. -/
  | missing
  /-- A vector length is wrong. -/
  | len
  deriving DecidableEq, Repr

/-- What a command raises, with its detail (R175 to R180). -/
inductive CmdError where
  /-- ValidationError. -/
  | validation (cause : SubCause)
  /-- ConfigurationError: row and column of the first offending entry (R112, R179). -/
  | configuration (row col : Nat)
  /-- InternalInvariantError: the packed syndrome without a valid entry (R139, R179). -/
  | internalInvariant (syndrome : Nat)
  /-- IllegalCommand: the word written to `CMD` (R180). -/
  | illegalCommand (word : Word)
  deriving DecidableEq, Repr

/-- The fields of `STATUS` but for `BUSY`, which is `seq = running _` (R25). -/
structure Status where
  done      : Bool
  err       : ErrKind
  softfb    : Bool
  errsticky : Bool
  deriving DecidableEq, Repr

/-- The sequencer (R20, R49): idle, or running the command word captured by the accepted `CMD` write (R72). -/
inductive Sequencer where
  | idle
  | running (word : Word)
  deriving DecidableEq, Repr

/-- What the environment does next (log 4). -/
inductive Input where
  /-- The host reads the register at a word address (R63). -/
  | read (addr : BitVec 7)
  /-- The host writes a word to the register at a word address (R64). -/
  | write (addr : BitVec 7) (data : Word)
  /-- The reset input `rst` is driven to a level: asserted (`true`) or released (R200; log 11). -/
  | rst (level : Bool)
  /-- The environment does nothing; the sequencer has its turn. -/
  | quiet
  deriving DecidableEq, Repr

/-- The machine never stops with a fault: "every command on every state either completes with the results the rules give
or raises one named error" (93_implementation_defined.md, section 2; log 14). A raise is a next state (R181). No
constructor: nothing raises one. -/
inductive Fault
  deriving DecidableEq, Repr

/-- The refusals of a step. -/
inductive Refusal where
  /-- Raised only by an arm of `exec` that has no meaning yet (safe: the machine stops). No arm does. -/
  | notModelled (mnemonic : String)
  deriving DecidableEq, Repr

/-- The state. Reset values: `State.reset` (R201). -/
structure State where
  /-- `N_MAX − 1`: the index of the last implemented row of GMEM and HMEM. A build parameter, 1 ≤ N_MAX ≤ 32 (R7). -/
  lastRow : Fin 32
  /-- The sequencer; `STATUS.BUSY` is 1 exactly when it is running (R25). -/
  seq     : Sequencer
  /-- `STATUS` (R25). -/
  status  : Status
  /-- `CTRL.IE` (R26). -/
  ie      : Bool
  /-- `ERRINFO` (R27). -/
  errinfo : Word
  /-- `N` (R28). -/
  n       : BitVec 6
  /-- `K` (R28). -/
  k       : BitVec 6
  /-- `MVALID.GVALID` (R30). -/
  gvalid  : Bool
  /-- `MVALID.HVALID` (R30). -/
  hvalid  : Bool
  /-- `VA` (R31). -/
  va      : Word
  /-- `LENA` (R32). -/
  lenA    : BitVec 6
  /-- `VB` (R31). -/
  vb      : Word
  /-- `LENB` (R32). -/
  lenB    : BitVec 6
  /-- `VR` (R33). -/
  vr      : Word
  /-- `LENR` (R33). -/
  lenR    : BitVec 6
  /-- `RES`, bits [5:0]; the others read 0 (R34). -/
  res     : BitVec 6
  /-- `PCNT` (R35). -/
  pcnt    : BitVec 6
  /-- `PLIST[0..31]` (R35). -/
  plist   : Vector (BitVec 5) 32
  /-- `TADDR` (R41). -/
  taddr   : Word
  /-- GMEM (R36): the rows written since reset. -/
  gmem    : Memory Word
  /-- HMEM (R37): the rows written since reset. -/
  hmem    : Memory Word
  /-- TMEM (R40): the valid entries with their weights (log 9). -/
  tmem    : Memory (BitVec 6)
  /-- `reg_rdata` of the register port (R45): what the last host read returned (log 5). -/
  rdata   : Word
  /-- The level of the reset input `rst`: is it asserted (R200; log 11)? -/
  rstHeld : Bool
  /-- The RND bits next in line; after them the stream goes on with `Config.rho` (R46, R102; log 6). -/
  rnd     : List Bool
  /-- The RND cursor: how many bits have been consumed (R102). -/
  cursor  : Nat
  /-- The model's own: what the environment does next, in order (log 4). -/
  inputs  : List Input
  /-- The model's own: numbers the draws of free values (log 12). -/
  draws   : Nat
  deriving DecidableEq, Repr

/-- The state after reset (R201), `rst` released, with the spec's default `N_MAX = 16`. -/
def State.reset : State where
  lastRow := Config.defaultLastRow
  seq := .idle
  status := { done := false, err := .noError, softfb := false, errsticky := false }
  ie := false
  errinfo := 0
  n := 0
  k := 0
  gvalid := false
  hvalid := false
  va := 0
  lenA := 0
  vb := 0
  lenB := 0
  vr := 0
  lenR := 0
  res := 0
  pcnt := 0
  plist := Vector.replicate 32 0
  taddr := 0
  gmem := []
  hmem := []
  tmem := []
  rdata := 0
  rstHeld := false
  rnd := []
  cursor := 0
  inputs := []
  draws := 0

end Sys2Proof.Machine
end

