-- ==== Sys2Proof/Machine/Flags.lean ====
section
/-! DEFINITION. The flags: the words of `STATUS`, `MVALID` and `CTRL`, the W1C write, `irq`, and the codes and layouts of
an error (R25 to R27, R30, R176, R186). The block has no arithmetic condition codes (R48). -/

namespace Sys2Proof.Machine

/-- A flag as a word with that bit at `pos`. -/
def flagAt (b : Bool) (pos : Nat) : Word := if b then BitVec.ofNat 32 (2 ^ pos) else 0

/-- `STATUS.BUSY`: a command is in progress (R25). -/
def State.busy (s : State) : Bool :=
  match s.seq with
  | .idle => false
  | .running _ => true

/-- The code of an error kind (R176). -/
def ErrKind.code : ErrKind → BitVec 3
  | .noError => 0
  | .validationError => 1
  | .configurationError => 2
  | .internalInvariantError => 3
  | .illegalCommand => 4

/-- The number of a ValidationError sub-cause (R27). -/
def SubCause.code : SubCause → BitVec 2
  | .dim => 1
  | .missing => 2
  | .len => 3

/-- The kind of what is raised (R176). -/
def CmdError.kind : CmdError → ErrKind
  | .validation _ => .validationError
  | .configuration _ _ => .configurationError
  | .internalInvariant _ => .internalInvariantError
  | .illegalCommand _ => .illegalCommand

/-- The layout of `ERRINFO` (R27). -/
def CmdError.layout : CmdError → Word
  | .validation c => c.code.setWidth 32
  | .configuration i j => (BitVec.ofNat 6 i).setWidth 32 ||| ((BitVec.ofNat 6 j).setWidth 32 <<< 8)
  | .internalInvariant a => (BitVec.ofNat 31 a).setWidth 32
  | .illegalCommand w => w

/-- The word `STATUS` reads as (R25): BUSY 0, DONE 1, ERR 6:4, SOFTFB 8, ERRSTICKY 9. -/
def State.statusWord (s : State) : Word :=
  flagAt s.busy 0 ||| flagAt s.status.done 1 ||| (s.status.err.code.setWidth 32 <<< 4) |||
    flagAt s.status.softfb 8 ||| flagAt s.status.errsticky 9

/-- A host write to `STATUS` (R25): a written 1 clears `DONE` (bit 1) or `ERRSTICKY` (bit 9), nothing else. -/
def Status.acknowledge (st : Status) (v : Word) : Status :=
  { st with done := st.done && !v.getLsbD 1, errsticky := st.errsticky && !v.getLsbD 9 }

/-- The word `MVALID` reads as (R30). -/
def State.mvalidWord (s : State) : Word := flagAt s.gvalid 0 ||| flagAt s.hvalid 1

/-- The interrupt output (R26, R186): `irq = CTRL.IE & STATUS.DONE`, a level. -/
def State.irq (s : State) : Bool := s.ie && s.status.done

/-- The first error of a list of checks in order whose condition holds (R177, R182). -/
def firstRaise : List (Bool × CmdError) → Option CmdError
  | [] => none
  | (c, e) :: rest => if c then some e else firstRaise rest

end Sys2Proof.Machine
end

