-- ==== Sys2Proof/Machine/Operands.lean ====
section
/-! DEFINITION. Vectors, matrices and syndromes (R11 to R15), and every operand form of the commands: the dimensions, the
rows of G and H, the vectors A and B, the RND bits (R81). -/

namespace Sys2Proof.Machine

/-- `vec_L(x)`: element `j` is bit `L − 1 − j` of `x`; bits `L` and above are ignored (R11, R12). -/
def vec (L x : Nat) : Vec := (List.range L).map fun j => x.testBit (L - 1 - j)

/-- `pack_L(v)`: element 0 is the most significant bit (R11). -/
def pack (v : Vec) : Nat := v.foldl (fun acc b => 2 * acc + b.toNat) 0

/-- `zext_32(pack_L(v))` (R12). -/
def packWord (v : Vec) : Word := BitVec.ofNat 32 (pack v)

/-- `ident(i, j)` (R13). -/
def ident (i j : Nat) : Bool := decide (i = j)

/-- Element `j` of row `i` of a matrix (R13). -/
def entry (M : List Vec) (i j : Nat) : Bool := (M.getD i []).getD j false

/-- `dot_L(a, b)`: exclusive-or of the products of the elements (R14). -/
def dot (a b : Vec) : Bool := (List.zipWith (· && ·) a b).foldl xor false

/-- `wt(v)`: the number of 1s (R14). -/
def wt (v : Vec) : Nat := v.count true

/-- `flipAt`, the spec's `flip(v, i)`: `v` with element `i` inverted (R14). -/
def flipAt (v : Vec) (i : Nat) : Vec := v.modify i not

/-- `syn(H, v)` (R15). -/
def syn (H : List Vec) (v : Vec) : Vec := H.map fun h => dot h v

/-- `syn_packed(H, v)`, the TMEM address; 0 when H has no rows (R15). -/
def synPacked (H : List Vec) (v : Vec) : Nat := pack (syn H v)

/-- The indices `j` below `L` with `a[j] ≠ b[j]`, ascending (R156, R158). -/
def mismatches (L : Nat) (a b : Vec) : List Nat := (List.range L).filter fun j => a.getD j false != b.getD j false

/-- `N_MAX` (R7). -/
def State.nMax (s : State) : Nat := s.lastRow.val + 1

/-- `T_DEPTH = 2^(N_MAX − 1)` (R8). -/
def State.tDepth (s : State) : Nat := 2 ^ s.lastRow.val

/-- The code length `n` (R28). -/
def State.nVal (s : State) : Nat := s.n.toNat

/-- The message length `k` (R28). -/
def State.kVal (s : State) : Nat := s.k.toNat

/-- The syndrome length `r = N − K` (R28). -/
def State.rVal (s : State) : Nat := s.nVal - s.kVal

/-- `0 < K ≤ N ≤ N_MAX` (R178). -/
def State.dimsOk (s : State) : Bool := decide (0 < s.kVal) && decide (s.kVal ≤ s.nVal) && decide (s.nVal ≤ s.nMax)

/-- What an address of a memory holds, if it is listed. -/
def Memory.read {α : Type} : Memory α → Nat → Option α
  | [], _ => none
  | (b, x) :: m, a => if a = b then some x else Memory.read m a

/-- The word of a row of a matrix memory, at word address `base + i` of the register space: what was written, or a free
value while nothing was (R52, U1; log 7). -/
def State.rowWord (s : State) (base : Nat) (m : Memory Word) (i : Nat) : Word :=
  (m.read i).getD (Config.unwrittenRow s.draws (base + i))

/-- `GMEM[i]` as it reads (R36). -/
def State.gWord (s : State) (i : Nat) : Word := s.rowWord 0x20 s.gmem i

/-- `HMEM[i]` as it reads (R37). -/
def State.hWord (s : State) (i : Nat) : Word := s.rowWord 0x40 s.hmem i

/-- G as a command reads it: `G[i] = vec_n(GMEM[i])` for `i < k` (R36, R111). -/
def State.matG (s : State) : List Vec :=
  (List.range s.kVal).map fun i => vec s.nVal (s.gWord i).toNat

/-- H as a command reads it: `H[i] = vec_n(HMEM[i])` for `i < r` (R37, R121). -/
def State.matH (s : State) : List Vec :=
  (List.range s.rVal).map fun i => vec s.nVal (s.hWord i).toNat

/-- Vector operand A: `vec_LENA(VA)` (R31). -/
def State.vecA (s : State) : Vec := vec s.lenA.toNat s.va.toNat

/-- Vector operand B: `vec_LENB(VB)` (R31). -/
def State.vecB (s : State) : Vec := vec s.lenB.toNat s.vb.toNat

/-- The RND bit `m` places ahead of the cursor (R102): from the bits in line, then from the stream. -/
def State.rndBit (s : State) (m : Nat) : Bool := (s.rnd[m]?).getD (Config.rho (s.cursor + m))

end Sys2Proof.Machine
end

