-- ==== Sys2Proof/Machine/RegMap.lean ====
section
/-! DEFINITION. The register map (spec/10_state.md section 2, spec/20_memory.md R60, R61): addresses to names and back. -/

namespace Sys2Proof.Machine

/-- The registers of the 7-bit word-addressed register space. -/
inductive Reg where
  | id | param | cmd | status | ctrl | errinfo | n | k | mvalid | va | lenA | vb | lenB | vr | lenR | res | pcnt
  | taddr | tdata | tcount
  /-- The addresses 0x14 to 0x1F. -/
  | reserved
  | gmem (row : Fin 32)
  | hmem (row : Fin 32)
  | plist (t : Fin 32)
  deriving DecidableEq, Repr

/-- The registers at 0x00 to 0x13, in address order. -/
def fixedRegs : List Reg :=
  [.id, .param, .cmd, .status, .ctrl, .errinfo, .n, .k, .mvalid, .va, .lenA, .vb, .lenB, .vr, .lenR, .res, .pcnt,
   .taddr, .tdata, .tcount]

/-- The row or list index an address names inside its region of 32 words. -/
def regionIndex (a : BitVec 7) : Fin 32 := Fin.ofNat 32 (a.toNat % 32)

/-- The register at a word address; every address has one (R61). -/
def regAt (a : BitVec 7) : Reg :=
  if a.toNat < 0x20 then fixedRegs.getD a.toNat .reserved
  else if a.toNat < 0x40 then .gmem (regionIndex a)
  else if a.toNat < 0x60 then .hmem (regionIndex a)
  else .plist (regionIndex a)

/-- The word address of a register (the first one, for the reserved region). -/
def Reg.addr : Reg → BitVec 7
  | .id => 0x00
  | .param => 0x01
  | .cmd => 0x02
  | .status => 0x03
  | .ctrl => 0x04
  | .errinfo => 0x05
  | .n => 0x06
  | .k => 0x07
  | .mvalid => 0x08
  | .va => 0x09
  | .lenA => 0x0A
  | .vb => 0x0B
  | .lenB => 0x0C
  | .vr => 0x0D
  | .lenR => 0x0E
  | .res => 0x0F
  | .pcnt => 0x10
  | .taddr => 0x11
  | .tdata => 0x12
  | .tcount => 0x13
  | .reserved => 0x14
  | .gmem i => BitVec.ofNat 7 (0x20 + i.val)
  | .hmem i => BitVec.ofNat 7 (0x40 + i.val)
  | .plist t => BitVec.ofNat 7 (0x60 + t.val)

/-- `ID` (R22): "CTH" and the interface version 1. -/
def idValue : Word := 0x43544801

end Sys2Proof.Machine
end

