-- ==== Sys2Proof/Machine/Ops.lean ====
section
/-! DEFINITION. The shared operations: memory writes, the start and the two ends of a command, `raise` (R181), the table's
invalidation (R43), the host's register reads and writes (R63 to R66), the RND port and reset (R200 to R202). -/

namespace Sys2Proof.Machine

/-- The canonical form: addresses strictly rising. -/
abbrev Memory.wf {α : Type} (m : Memory α) : Prop := (m.map Prod.fst).Pairwise (· < ·)

/-- Store a value, keeping the canonical form. -/
def Memory.write {α : Type} : Memory α → Nat → α → Memory α
  | [], a, x => [(a, x)]
  | (b, y) :: m, a, x =>
    if a < b then (a, x) :: (b, y) :: m
    else if a = b then (a, x) :: m
    else (b, y) :: Memory.write m a x

/-- Make an address unlisted, keeping the canonical form. -/
def Memory.erase {α : Type} (m : Memory α) (a : Nat) : Memory α := m.filter fun c => c.1 != a

/-- Store words at consecutive addresses from `i` on. -/
def Memory.writeRows (m : Memory Word) (i : Nat) : List Word → Memory Word
  | [] => m
  | w :: ws => Memory.writeRows (m.write i w) (i + 1) ws

/-- `invalidate_table()`: clears the valid bit of every TMEM entry (R43). -/
def State.invalidateTable (s : State) : State := { s with tmem := [] }

/-- A read of matrix rows or of the port has used up one draw of free values (log 12). -/
def State.countDraw (s : State) : State := { s with draws := s.draws + 1 }

/-- Consume `m` bits of the RND stream (R102). -/
def State.takeRnd (s : State) (m : Nat) : State := { s with rnd := s.rnd.drop m, cursor := s.cursor + m }

/-- Command start (R87): `BUSY <- 1; DONE <- 0; ERR <- 0; SOFTFB <- 0; ERRINFO <- 0`; the word is captured (R72). -/
def State.start (s : State) (w : Word) : State :=
  { s with
    seq := .running w
    status := { s.status with done := false, err := .noError, softfb := false }
    errinfo := 0 }

/-- Command completion without a raise (R88): `BUSY <- 0; DONE <- 1`. -/
def State.complete (s : State) : State := { s with seq := .idle, status := { s.status with done := true } }

/-- `raise E(info)` (R181): `ERR <- code(E); ERRINFO <- layout(E, info); ERRSTICKY <- 1; BUSY <- 0; DONE <- 1`, nothing
else. This is the block's whole exception entry: there is no handler address and no saved pc. There is no return either
(R183): the block is idle again, and the host acknowledges by the W1C write of `Status.acknowledge`. -/
def State.raise (s : State) (e : CmdError) : State :=
  { s with
    seq := .idle
    status := { s.status with done := true, err := e.kind, errsticky := true }
    errinfo := e.layout }

/-- A GMEM or HMEM row is implemented iff `i < N_MAX` (R36, R37, R61). -/
def State.implemented (s : State) (i : Fin 32) : Bool := decide (i ≤ s.lastRow)

/-- The word `TDATA` reads as (R41). -/
def State.tdataWord (s : State) : Word :=
  match s.tmem.read s.taddr.toNat with
  | some w => 0x80000000 ||| w.setWidth 32
  | none => 0

/-- What a register reads as while no command runs (10_state.md section 2). -/
def State.regValue (s : State) : Reg → Word
  | .id => idValue
  | .param => BitVec.ofNat 32 s.nMax
  | .cmd => 0
  | .status => s.statusWord
  | .ctrl => flagAt s.ie 0
  | .errinfo => s.errinfo
  | .n => s.n.setWidth 32
  | .k => s.k.setWidth 32
  | .mvalid => s.mvalidWord
  | .va => s.va
  | .lenA => s.lenA.setWidth 32
  | .vb => s.vb
  | .lenB => s.lenB.setWidth 32
  | .vr => s.vr
  | .lenR => s.lenR.setWidth 32
  | .res => s.res.setWidth 32
  | .pcnt => s.pcnt.setWidth 32
  | .taddr => s.taddr
  | .tdata => s.tdataWord
  | .tcount => BitVec.ofNat 32 s.tmem.length
  | .reserved => 0
  | .gmem i => if s.implemented i then s.gWord i else 0
  | .hmem i => if s.implemented i then s.hWord i else 0
  | .plist t => (s.plist.get t).setWidth 32

/-- What a host read of a register returns (R63, R66): while a command runs, only `STATUS` has a specified value. -/
def State.portValue (s : State) (r : Reg) : Word :=
  if s.busy && r != .status then Config.busyRead s.draws else s.regValue r

/-- `MemRead(addr, 1)` (R63): the value goes to the port; no register changes (R65). -/
def State.hostRead (s : State) (a : BitVec 7) : State := { s.countDraw with rdata := s.portValue (regAt a) }

/-- A host write of `c` to `CMD` (R24, R87): a legal word starts its command; an illegal one "starts and at once ends a
command that does nothing but `raise IllegalCommand(word)`" (R84). -/
def State.writeCmd (s : State) (c : Word) : State :=
  match decode c with
  | .ok _ => s.start c
  | .error _ => (s.start c).raise (.illegalCommand c)

/-- A write to `N` or `K` also clears both `MVALID` bits and invalidates the table (R29). -/
def State.dropCode (s : State) : State := { s with gvalid := false, hvalid := false }.invalidateTable

/-- A write of `TDATA` (R41): bit 31 is the valid bit, bits [5:0] the weight. -/
def State.writeTdata (s : State) (v : Word) : State :=
  if v.getLsbD 31 then { s with tmem := s.tmem.write s.taddr.toNat (v.setWidth 6) }
  else { s with tmem := s.tmem.erase s.taddr.toNat }

/-- A host write to a register while no command runs (R64, R65): read-only registers, reserved bits, reserved addresses
and unimplemented rows ignore it. -/
def State.writeReg (s : State) (v : Word) : Reg → State
  | .id => s
  | .param => s
  | .cmd => s.writeCmd v
  | .status => { s with status := s.status.acknowledge v }
  | .ctrl => { s with ie := v.getLsbD 0 }
  | .errinfo => s
  | .n => { s with n := v.setWidth 6 }.dropCode
  | .k => { s with k := v.setWidth 6 }.dropCode
  | .mvalid => { s with gvalid := v.getLsbD 0, hvalid := v.getLsbD 1 }
  | .va => { s with va := v }
  | .lenA => { s with lenA := v.setWidth 6 }
  | .vb => { s with vb := v }
  | .lenB => { s with lenB := v.setWidth 6 }
  | .vr => s
  | .lenR => s
  | .res => s
  | .pcnt => s
  | .taddr => { s with taddr := BitVec.ofNat 32 (v.toNat % s.tDepth) }
  | .tdata => s.writeTdata v
  | .tcount => s
  | .reserved => s
  | .gmem i => if s.implemented i then { s with gmem := s.gmem.write i v } else s
  | .hmem i => if s.implemented i then { s with hmem := s.hmem.write i v }.invalidateTable else s
  | .plist _ => s

/-- `MemWrite(addr, 1, v)` (R64); while a command runs every write is dropped (R66), and while `rst` is asserted none
changes the reset values (R200; log 11). -/
def State.hostWrite (s : State) (a : BitVec 7) (v : Word) : State :=
  if s.busy || s.rstHeld then s else s.writeReg v (regAt a)

/-- How many RND bits the command in progress has consumed when `rst` abandons it (R202): none but for GEN_G, which may
have drawn any number up to the `k·(n−k)` it asks for (log 10). -/
def State.abandonedRnd (s : State) : Nat :=
  match s.seq with
  | .idle => 0
  | .running w =>
    if commandOf w == some .genG && s.dimsOk then
      Config.abandonedBits s.draws % (s.kVal * s.rVal + 1)
    else 0

/-- The values of R201. `N_MAX` is a build parameter; the ports and what the environment does are not the block's. -/
def State.resetValues (s : State) : State :=
  { State.reset with
    lastRow := s.lastRow
    rdata := s.rdata
    rstHeld := s.rstHeld
    rnd := s.rnd
    cursor := s.cursor
    inputs := s.inputs
    draws := s.draws }

/-- The reset input is driven to a level (R200 to R202). "While `rst` is asserted, and at the moment it is released, the
state has the values of rule R201", so an assertion and the release after it leave these; the RND cursor stays where the
bits consumed so far have put it. Releasing an input that is not asserted changes nothing. -/
def State.rst (s : State) (level : Bool) : State :=
  if level || s.rstHeld then
    { (s.takeRnd s.abandonedRnd).resetValues with rstHeld := level, draws := s.draws + 1 }
  else s

end Sys2Proof.Machine
end

