-- ==== Sys2Proof/Machine/HammingEngine.lean ====
section
/-! DEFINITION. Unit hamming_distance_engine: CNT_ERR and ERR_POS (spec/44_hamming_distance_engine.md). -/

namespace Sys2Proof.Machine

/-- A vector operand cannot be longer than one word: `LENA > 32 or LENB > 32` (R157). -/
def State.lengthsTooLong (s : State) : Bool := decide (32 < s.lenA.toNat) || decide (32 < s.lenB.toNat)

/-- The mismatch positions the two commands work on: none when the lengths differ (R155). -/
def State.mismatchList (s : State) : List Nat :=
  if s.lenA = s.lenB then mismatches s.lenA.toNat s.vecA s.vecB else []

/-- The soft fallback (R155, R184): `SOFTFB <- 1` exactly when the lengths differ; otherwise it is left alone. -/
def State.noteFallback (s : State) : State :=
  if s.lenA = s.lenB then s else { s with status := { s.status with softfb := true } }

/-- `PLIST[t] <- (t < length(P)) ? P[t] : 0` (R158 step 4). -/
def positionList (P : List Nat) : Vector (BitVec 5) 32 := Vector.ofFn fun t => BitVec.ofNat 5 (P.getD t.val 0)

/-- CNT_ERR (R156). -/
def execCntErr (s : State) : Host.Outcome State Fault Refusal :=
  match firstRaise [(s.lengthsTooLong, .validation .len)] with
  | some e => .next (s.raise e)
  | none => .next ({ s.noteFallback with res := BitVec.ofNat 6 s.mismatchList.length }.complete)

/-- ERR_POS (R158). -/
def execErrPos (s : State) : Host.Outcome State Fault Refusal :=
  match firstRaise [(s.lengthsTooLong, .validation .len)] with
  | some e => .next (s.raise e)
  | none =>
    .next ({ s.noteFallback with
              pcnt := BitVec.ofNat 6 s.mismatchList.length
              plist := positionList s.mismatchList }.complete)

end Sys2Proof.Machine
end

