-- ==== Sys2Proof/Machine/LookupDecoder.lean ====
section
/-! DEFINITION. Unit syndrome_lookup_decoder: DECODE and GET_PRIMARY (spec/43_syndrome_lookup_decoder.md). -/

namespace Sys2Proof.Machine

/-- `lookup(a)` (R139): the weight of a valid entry, or the miss, named by the address. -/
def lookupWeight (table : Memory (BitVec 6)) (a : Nat) : Except Nat (BitVec 6) :=
  match table.read a with
  | some w => .ok w
  | none => .error a

/-- Step 5 of R136 over the positions still to try: flip; stop at weight 0; keep the flip if the weight falls; else undo
it. Answers the vector and the last accepted weight, or the address of the first lookup miss. -/
def searchFlips (H : List Vec) (table : Memory (BitVec 6)) : List Nat → Vec → BitVec 6 → Except Nat (Vec × BitVec 6)
  | [], cur, w => .ok (cur, w)
  | i :: rest, cur, w =>
    match lookupWeight table (synPacked H (flipAt cur i)) with
    | .error a => .error a
    | .ok w2 =>
      if w2 = 0 then .ok (flipAt cur i, 0)
      else if w2 < w then searchFlips H table rest (flipAt cur i) w2
      else searchFlips H table rest cur w

/-- Steps 4 and 5 of R136 for the received vector `rv`: weight 0 returns it unchanged. -/
def decodeSearch (n : Nat) (H : List Vec) (table : Memory (BitVec 6)) (rv : Vec) : Except Nat (Vec × BitVec 6) :=
  match lookupWeight table (synPacked H rv) with
  | .error a => .error a
  | .ok w => if w = 0 then .ok (rv, w) else searchFlips H table (List.range n) rv w

/-- DECODE (R136). The working copy is internal: `VA` is not changed (R145). -/
def execDecode (s : State) : Host.Outcome State Fault Refusal :=
  match firstRaise [(!s.dimsOk, .validation .dim), (!s.hvalid, .validation .missing),
      (s.lenA != s.n, .validation .len)] with
  | some e => .next (s.raise e)
  | none =>
    match decodeSearch s.nVal s.matH s.tmem (vec s.nVal s.va.toNat) with
    | .error a => .next (s.countDraw.raise (.internalInvariant a))
    | .ok (cur, w) => .next ({ s.countDraw with vr := packWord cur, lenR := s.n, res := w }.complete)

/-- GET_PRIMARY (R143). -/
def execGetPrimary (s : State) : Host.Outcome State Fault Refusal :=
  match firstRaise [(!s.dimsOk, .validation .dim), (s.lenA != s.n, .validation .len)] with
  | some e => .next (s.raise e)
  | none =>
    .next ({ s with vr := packWord ((vec s.nVal s.va.toNat).take s.kVal), lenR := s.k }.complete)

end Sys2Proof.Machine
end

