-- ==== Sys2Proof/Machine/MatrixGen.lean ====
section
/-! DEFINITION. Unit gf2_matrix_gen: GEN_G (spec/40_gf2_matrix_gen.md). -/

namespace Sys2Proof.Machine

/-- Row `i` of the drawn block A: entry `A[i][j]` is the RND bit at cursor offset `i·r + j`, row-major (R102). -/
def State.drawnRow (s : State) (i : Nat) : Vec := (List.range s.rVal).map fun j => s.rndBit (i * s.rVal + j)

/-- Row `i` of `G = [I_k | A]` (R101 step 3). -/
def State.generatorRow (s : State) (i : Nat) : Vec := (List.range s.kVal).map (ident i) ++ s.drawnRow i

/-- GEN_G (R101). -/
def execGenG (s : State) : Host.Outcome State Fault Refusal :=
  match firstRaise [(!s.dimsOk, .validation .dim)] with
  | some e => .next (s.raise e)
  | none =>
    .next ({ s.takeRnd (s.kVal * s.rVal) with
              gmem := s.gmem.writeRows 0 ((List.range s.kVal).map fun i => packWord (s.generatorRow i))
              gvalid := true }.complete)

end Sys2Proof.Machine
end

