-- ==== Sys2Proof/Machine/ParityCheck.lean ====
section
/-! DEFINITION. Unit parity_check_derivation: DERIVE_H (spec/41_parity_check_derivation.md). -/

namespace Sys2Proof.Machine

/-- The positions of the left `k × k` block, row by row (R112). -/
def blockPositions (k : Nat) : List (Nat × Nat) :=
  (List.range k).flatMap fun i => (List.range k).map fun j => (i, j)

/-- The first `(i, j)` of the left block with `G[i][j] ≠ ident(i, j)` (R112). -/
def identityMismatch (G : List Vec) (k : Nat) : Option (Nat × Nat) :=
  (blockPositions k).find? fun p => entry G p.1 p.2 != ident p.1 p.2

/-- Row `j` of `H = [Aᵗ | I_r]`: column `k + j` of G, then the unit row `j` (R111 step 4). -/
def parityRow (G : List Vec) (k r j : Nat) : Vec :=
  ((List.range k).map fun i => entry G i (k + j)) ++ (List.range r).map (ident j)

/-- DERIVE_H (R111). -/
def execDeriveH (s : State) : Host.Outcome State Fault Refusal :=
  match firstRaise [(!s.dimsOk, .validation .dim), (!s.gvalid, .validation .missing)] with
  | some e => .next (s.raise e)
  | none =>
    match identityMismatch s.matG s.kVal with
    | some p => .next (s.countDraw.raise (.configuration p.1 p.2))
    | none =>
      .next ({ s.countDraw with
                hmem := s.hmem.writeRows 0
                  ((List.range s.rVal).map fun j => packWord (parityRow s.matG s.kVal s.rVal j))
                hvalid := true }.invalidateTable.complete)

end Sys2Proof.Machine
end

