-- ==== Sys2Proof/Machine/TableBuilder.lean ====
section
/-! DEFINITION. Unit syndrome_table_builder: BUILD_TABLE (spec/42_syndrome_table_builder.md). -/

namespace Sys2Proof.Machine

/-- The indices of weight class `w`, ascending (R121 step 4). -/
def weightClass (n w : Nat) : List Nat := (List.range (2 ^ n)).filter fun i => wt (vec n i) == w

/-- The visiting order (R123): weight classes ascending, and inside one class indices ascending; pairs (weight, index). -/
def visitOrder (n : Nat) : List (Nat × Nat) :=
  (List.range (n + 1)).flatMap fun w => (weightClass n w).map fun i => (w, i)

/-- The walk (R121 step 4): record the weight of the first vector of each syndrome; stop when `full` syndromes are
recorded, or when the enumeration is exhausted (R126). -/
def buildWalk (n : Nat) (H : List Vec) (full : Nat) : List (Nat × Nat) → Memory (BitVec 6) → Nat → Memory (BitVec 6)
  | [], table, _ => table
  | (w, i) :: rest, table, count =>
    match table.read (synPacked H (vec n i)) with
    | some _ => buildWalk n H full rest table count
    | none =>
      if count + 1 = full then table.write (synPacked H (vec n i)) (BitVec.ofNat 6 w)
      else buildWalk n H full rest (table.write (synPacked H (vec n i)) (BitVec.ofNat 6 w)) (count + 1)

/-- BUILD_TABLE (R121). The table is rebuilt from nothing (R122). -/
def execBuildTable (s : State) : Host.Outcome State Fault Refusal :=
  match firstRaise [(!s.dimsOk, .validation .dim), (!s.hvalid, .validation .missing)] with
  | some e => .next (s.raise e)
  | none =>
    .next ({ s.countDraw.invalidateTable with
              tmem := buildWalk s.nVal s.matH (2 ^ s.rVal) (visitOrder s.nVal) [] 0 }.complete)

end Sys2Proof.Machine
end

