-- ==== Sys2Proof/Machine/Dispatch.lean ====
section
/-! DEFINITION. One arm per command: the body of a command that has been started (R87). -/

namespace Sys2Proof.Machine

def exec (i : Instr) (s : State) : Host.Outcome State Fault Refusal :=
  match i with
  | .genG => Sys2Proof.Machine.execGenG s
  | .deriveH => Sys2Proof.Machine.execDeriveH s
  | .buildTable => Sys2Proof.Machine.execBuildTable s
  | .decode => Sys2Proof.Machine.execDecode s
  | .getPrimary => Sys2Proof.Machine.execGetPrimary s
  | .cntErr => Sys2Proof.Machine.execCntErr s
  | .errPos => Sys2Proof.Machine.execErrPos s

end Sys2Proof.Machine
end

