-- ==== Sys2Proof/Machine/Sequencer.lean ====
section
/-! DEFINITION. The sequencer's turn: idle, or the body of the latched command word (R20, R87, R88). -/

namespace Sys2Proof.Machine

/-- Run the latched word (R87): decode it; a legal word runs its body, an illegal one raises IllegalCommand (R84). -/
def runWord (w : Word) (s : State) : Host.Outcome State Fault Refusal :=
  match decode w with
  | .ok i => exec i s
  | .error _ => .next (s.raise (.illegalCommand w))

/-- The sequencer's turn: nothing while `rst` is asserted (R200), nothing while idle ("the block executes nothing until a
command is written", R201); a command in progress runs to its end as one step (R69, R212; log 2). -/
def State.sequencerTurn (s : State) : Host.Outcome State Fault Refusal :=
  if s.rstHeld then .next s
  else match s.seq with
    | .idle => .next s
    | .running w => runWord w s

end Sys2Proof.Machine
end

