-- ==== Sys2Proof/Machine/Step.lean ====
section
/-! DEFINITION. One step of the machine: what stands next in `State.inputs` happens, or, where the environment does
nothing, the sequencer has its turn (R20, R70; log 4). -/

namespace Sys2Proof.Machine

/-- One step. -/
def step (s : State) : Host.Outcome State Fault Refusal :=
  match s.inputs with
  | [] => s.sequencerTurn
  | .quiet :: rest => { s with inputs := rest }.sequencerTurn
  | .read a :: rest => .next ({ s with inputs := rest }.hostRead a)
  | .write a v :: rest => .next ({ s with inputs := rest }.hostWrite a v)
  | .rst level :: rest => .next ({ s with inputs := rest }.rst level)

/-- `s` with the word as the command in progress, as an accepted `CMD` write leaves it (R72, R87), and the environment
silent and `rst` released for the next step, so that the very next step runs it (log 17). -/
def State.withFetchWord (s : State) (nbits w : Nat) : State :=
  { s.start (tableWord nbits w) with rstHeld := false, inputs := .quiet :: s.inputs }

end Sys2Proof.Machine
end

