-- ==== Sys2Proof/Machine/HostNotation.lean ====
section
/-! DEFINITION. The host notation of spec/30_encoding.md R85 and R86: lines and pseudo-operations as lists of inputs. -/

namespace Sys2Proof.Machine

/-- `WR name, value` (R85). -/
def wr (r : Reg) (v : Word) : List Input := [.write r.addr v]

/-- `RD name` (R85). -/
def rd (r : Reg) : List Input := [.read r.addr]

/-- `CMD mnemonic` (R86). -/
def cmd (i : Instr) : List Input := wr .cmd (encode i)

/-- `WAIT` (R86): the sequencer gets its turn, after which one read of `STATUS` sees `BUSY = 0`. -/
def wait : List Input := .quiet :: rd .status

/-- `RUN mnemonic` (R86). -/
def run (i : Instr) : List Input := cmd i ++ wait

/-- `SETDIM n, k` (R86). -/
def setDim (n k : Word) : List Input := wr .n n ++ wr .k k

/-- The row writes of `LOADG` and `LOADH` (R86), from row 0 on. -/
def loadRows (at_ : Fin 32 → Reg) (rows : List Word) : List Input :=
  rows.zipIdx.flatMap fun p => wr (at_ (Fin.ofNat 32 p.2)) p.1

/-- `LOADG g0, g1, …` (R86), where `m` is what the read of `MVALID` returns. -/
def loadG (rows : List Word) (m : Word) : List Input := loadRows .gmem rows ++ rd .mvalid ++ wr .mvalid (m ||| 1)

/-- `LOADH h0, h1, …` (R86), where `m` is what the read of `MVALID` returns. -/
def loadH (rows : List Word) (m : Word) : List Input := loadRows .hmem rows ++ rd .mvalid ++ wr .mvalid (m ||| 2)

/-- `TWRITE a, valid, weight` (R86). -/
def tWrite (a valid weight : Word) : List Input := wr .taddr a ++ wr .tdata (valid <<< 31 ||| weight)

/-- `TREAD a` (R86). -/
def tRead (a : Word) : List Input := wr .taddr a ++ rd .tdata

/-- `ACK` (R86): clears `DONE` and `ERRSTICKY`. -/
def ack : List Input := wr .status 0x202

/-- A program of R85: the `RND` lines state the bits the environment supplies, the others are transactions. -/
def State.withProgram (s : State) (bits : List Bool) (lines : List Input) : State :=
  { s with rnd := bits, inputs := lines }

end Sys2Proof.Machine
end

