-- ==== Sys2Proof/Machine/Reference.lean ====
section
/-! DEFINITION. The reference functions of the environment (spec/45_reference_encoder_channel.md): Encode and Transmit.
They have no opcode and no hardware; statements about the block use them. -/

namespace Sys2Proof.Machine

/-- Column `j` of a matrix. -/
def column (M : List Vec) (j : Nat) : Vec := M.map fun row => row.getD j false

/-- `Encode(m, G)` for a G with rows of length `n` (R165): `c[j]` is the exclusive-or over `i` of `m[i] & G[i][j]`; `none`
is the ValidationError of a message whose length is not the number of rows. -/
def encodeMessage (n : Nat) (m : Vec) (G : List Vec) : Option Vec :=
  if m.length = G.length then some ((List.range n).map fun j => dot m (column G j)) else none

/-- `Transmit(c, pe, rng)` (R167), with `u[j]` the value drawn for bit `j`: the bit is flipped iff `u[j] ≤ pe`. The spec
leaves open what `pe` and `rng` are (91_not_in_source.md N19). DESIGN CHOICE (log 16): numbers are rationals; `rng` is the
list `u` of this call's draws, one per bit of `c`, and what is left of the stream is not answered; the premises that `u` is
as long as `c`, that `pe` lies in `[0,1]` and the draws in `[0,1)` are the caller's and are not checked (a shorter `u` would
cut the result short). -/
def transmit (c : Vec) (pe : Rat) (u : List Rat) : Vec := List.zipWith (fun b x => xor b (decide (x ≤ pe))) c u

end Sys2Proof.Machine
end

