-- ==== Sys2Proof/Safety.lean ====
section
/-! DEFINITION. What every state a run can reach looks like (`State.Inv`), and what a safe step is. -/

namespace Sys2Proof.Machine

/-- A memory in canonical form whose addresses lie below `bound`. -/
abbrev Memory.within {α : Type} (m : Memory α) (bound : Nat) : Prop := m.wf ∧ ∀ c ∈ m, c.1 < bound

/-- The three memories are in canonical form and hold only addresses that exist (R8, R36, R37, R40). -/
abbrev State.MemoriesWf (s : State) : Prop :=
  s.gmem.within s.nMax ∧ s.hmem.within s.nMax ∧ s.tmem.within s.tDepth

/-- `TADDR` holds `N_MAX − 1` bits (R41). -/
abbrev State.TaddrInRange (s : State) : Prop := s.taddr.toNat < s.tDepth

/-- While a command runs, `DONE`, `ERR`, `SOFTFB` and `ERRINFO` are 0 (R66, R87), and the latched word is a command (R84). -/
abbrev State.BusyClean (s : State) : Prop :=
  ∀ w, s.seq = .running w →
    (commandOf w).isSome ∧ s.status.done = false ∧ s.status.err = .noError ∧ s.status.softfb = false

/-- `ERRINFO` is laid out as its `ERR` says (R27). -/
def errinfoFits : ErrKind → Word → Bool
  | .noError, x => x == 0
  | .validationError, x => x == 1 || x == 2 || x == 3
  | .configurationError, x => x &&& 0x3F3F == x
  | .internalInvariantError, x => !x.getLsbD 31
  | .illegalCommand, x => (commandOf x).isNone

/-- The soft fallback is not an error (R184): `SOFTFB = 1` only with `ERR = 0`. -/
abbrev State.FallbackIsNoError (s : State) : Prop := s.status.softfb = true → s.status.err = .noError

/-- The vector result has its stray bits 0 (R12, R33), and its length is at most 32. -/
abbrev State.ResultPacked (s : State) : Prop := s.vr.toNat < 2 ^ s.lenR.toNat ∧ s.lenR.toNat ≤ 32

/-- The position list (R35): at most 32 entries, strictly ascending below `PCNT`, 0 from `PCNT` on. -/
abbrev State.PositionsOrdered (s : State) : Prop :=
  s.pcnt.toNat ≤ 32 ∧
  (∀ t : Fin 32, s.pcnt.toNat ≤ t.val → s.plist.get t = 0) ∧
  ∀ t u : Fin 32, t < u → u.val < s.pcnt.toNat → s.plist.get t < s.plist.get u

/-- While `rst` is asserted the state has the values of R201 (R200). -/
abbrev State.HeldAtReset (s : State) : Prop := s.rstHeld = true → s = s.resetValues

/-- The invariant every step keeps. -/
structure State.Inv (s : State) : Prop where
  memories  : s.MemoriesWf
  taddr     : s.TaddrInRange
  busy      : s.BusyClean
  errinfo   : errinfoFits s.status.err s.errinfo = true
  fallback  : s.FallbackIsNoError
  result    : s.ResultPacked
  positions : s.PositionsOrdered
  held      : s.HeldAtReset

/-- A step is safe when it answers a next state: the block has no fault and refuses nothing. -/
def Safe (s : State) : Prop := ∃ t, step s = .next t

end Sys2Proof.Machine
end

