-- ==== Sys2Proof/Certificates/Slice0/Obligations.lean ====
section
/-! DEFINITION. The statements for the provers. Each docstring names the rule of spec/ it formalises. -/

namespace Sys2Proof.Claims
open Sys2Proof.Machine

/-- `0 < K ≤ N ≤ N_MAX` (R178), written out on the registers. -/
abbrev Dims (s : State) : Prop := 0 < s.k.toNat ∧ s.k.toNat ≤ s.n.toNat ∧ s.n.toNat ≤ s.lastRow.val + 1

/-- The outcome is the next state `t`, but for what no rule fixes beside it: the port's output between reads (log 5) and
the model's draw counter (log 12). -/
def Gives (o : Host.Outcome State Fault Refusal) (t : State) : Prop := ∃ p d, o = .next { t with rdata := p, draws := d }

/-- What a raise leaves (R181), written out. -/
def raised (s : State) (kind : ErrKind) (info : Word) : State :=
  { s with
    seq := .idle
    status := { done := true, err := kind, softfb := s.status.softfb, errsticky := true }
    errinfo := info }

/-- The command has completed without a raise (R88): `BUSY = 0`, `DONE = 1`, the rest of `STATUS` as it was. -/
def Ended (s t : State) : Prop := t.seq = .idle ∧ t.status = { s.status with done := true }

/-- The number whose `L` binary digits, most significant first, are `b 0, …, b (L − 1)` (R11). -/
def digits (L : Nat) (b : Nat → Bool) : Nat := ((List.range L).map fun j => (b j).toNat * 2 ^ (L - 1 - j)).sum

/-- The left `k × k` block of G, as DERIVE_H reads it, is the identity (R112). -/
def LeftIdentity (s : State) : Prop :=
  ∀ i j, i < s.k.toNat → j < s.k.toNat → entry s.matG i j = decide (i = j)

/-- The first `r` rows of HMEM have been written, so every read of H gives the same matrix (R52). -/
def HWritten (s : State) : Prop := ∀ i, i < s.n.toNat - s.k.toNat → (s.hmem.read i).isSome

/-- The table weight of a vector's syndrome, as a number (R138). -/
def weightOf (s : State) (v : Vec) : Nat := ((s.tmem.read (synPacked s.matH v)).map BitVec.toNat).getD 0

/-- One position of the pass of R136, without the early stop: once the weight is 0 nothing changes any more. -/
def tryFlip (s : State) (c : Vec × Nat) (i : Nat) : Vec × Nat :=
  if c.2 = 0 then c
  else if weightOf s (flipAt c.1 i) < c.2 then (flipAt c.1 i, weightOf s (flipAt c.1 i))
  else c

/-- The vector and the weight that the pass of R136 has when it comes to position `i`. -/
def passAt (s : State) (i : Nat) : Vec × Nat :=
  (List.range i).foldl (tryFlip s) (vec s.n.toNat s.va.toNat, weightOf s (vec s.n.toNat s.va.toNat))

/-- No lookup misses before position `i` is tried: the received vector's syndrome has an entry, and so has the syndrome
after each flip that is tried before. -/
def LookupsHit (s : State) (i : Nat) : Prop :=
  (s.tmem.read (synPacked s.matH (vec s.n.toNat s.va.toNat))).isSome ∧
  ∀ j, j < i → (passAt s j).2 ≠ 0 → (s.tmem.read (synPacked s.matH (flipAt (passAt s j).1 j))).isSome

/-- The table is the one R124 describes for the H in HMEM: a valid entry at `a` holds the least weight of the vectors with
packed syndrome `a`, and an address that no vector produces has none. -/
def ExactTable (s : State) : Prop :=
  ∀ a w, a < 2 ^ (s.n.toNat - s.k.toNat) →
    (s.tmem.read a = some w ↔
      ∃ v : Vec, v.length = s.n.toNat ∧ synPacked s.matH v = a ∧ wt v = w.toNat ∧
        ∀ u : Vec, u.length = s.n.toNat → synPacked s.matH u = a → wt v ≤ wt u)

/-- The values after reset (R201): every register, `irq`, the table, the sequencer; an implemented row of GMEM or HMEM is
unspecified, which in this model is a row that nothing has written (log 7). -/
def ResetValues (t : State) (lastRow : Fin 32) : Prop :=
  t.seq = .idle ∧ t.irq = false ∧ t.lastRow = lastRow ∧ (∀ a, t.tmem.read a = none) ∧
  ∀ r : Reg, match r with
    | .id => t.regValue .id = 0x43544801
    | .param => (t.regValue .param).toNat = lastRow.val + 1
    | .gmem i => if i ≤ lastRow then t.gmem.read i.val = none else t.regValue (.gmem i) = 0
    | .hmem i => if i ≤ lastRow then t.hmem.read i.val = none else t.regValue (.hmem i) = 0
    | r => t.regValue r = 0

/-- The host writes `v` to word address `a` while no command runs and `rst` is not asserted, and `rest` follows. -/
def HostWrites (s : State) (a : BitVec 7) (v : Word) (rest : List Input) : Prop :=
  s.seq = .idle ∧ s.rstHeld = false ∧ s.inputs = .write a v :: rest

/-- The next step runs the body of `i`: its word is latched, the environment is silent, `rst` is not asserted. -/
def RunsNow (s : State) (i : Instr) : Prop :=
  s.rstHeld = false ∧ (∃ w, s.seq = .running w ∧ decode w = .ok i) ∧
  (s.inputs = [] ∨ ∃ rest, s.inputs = .quiet :: rest)

/-- The next step is reset's: `rst` is asserted, or released after it was asserted (R200). -/
def ResetNow (s : State) : Prop :=
  ∃ level rest, s.inputs = .rst level :: rest ∧ (level = true ∨ s.rstHeld = true)

end Sys2Proof.Claims

open Sys2Proof Sys2Proof.Machine Sys2Proof.Claims

/-! ### Encoding -/

/-- R82, section 2 of 30_encoding.md: the seven command words, and words next to them that are none. -/
def Obligations.DecoderReadsTheOpcodeMap : Prop :=
  decode 0x00000001 = .ok .genG ∧ decode 0x00000002 = .ok .deriveH ∧ decode 0x00000003 = .ok .buildTable ∧
  decode 0x00000004 = .ok .decode ∧ decode 0x00000005 = .ok .getPrimary ∧ decode 0x00000006 = .ok .cntErr ∧
  decode 0x00000007 = .ok .errPos ∧
  decode 0x00000000 = .error .unusedOpcode ∧ decode 0x00000008 = .error .unusedOpcode ∧
  decode 0x0000000F = .error .unusedOpcode ∧ decode 0x00000014 = .error .reservedBitsSet ∧
  decode 0x80000001 = .error .reservedBitsSet

/-- R80, R82: encoding a command and decoding the word gives the command back. -/
def Obligations.EncodedCommandDecodesBack : Prop :=
  ∀ i : Instr, i.wellFormed = true →
    decode (encode i) = .ok i ∧ decodeTableWord 32 (encode i).toNat = some i

/-- R83: every word is exactly one of the seven command words, and is decoded as that one, or it is illegal. -/
def Obligations.DecodeIsTotalAndExact : Prop :=
  ∀ w : Word,
    (∃ i, w = encode i ∧ decode w = .ok i ∧ ∀ j, w = encode j → j = i) ∨
    ((∀ i, w ≠ encode i) ∧ (w.toNat / 16 ≠ 0 ∨ w.toNat % 16 = 0 ∨ 8 ≤ w.toNat % 16) ∧ ∃ e, decode w = .error e)

/-! ### Steps -/

/-- A step runs the decoded command: the latched word, decoded, is executed on the state as it stands (R72, R87), with the
environment's silence used up; `withFetchWord` makes the next step do so. -/
def Obligations.StepRunsTheDecodedCommand : Prop :=
  (∀ s w i, s.seq = .running w → s.rstHeld = false → decode w = .ok i →
    (s.inputs = [] → step s = exec i s) ∧
    (∀ rest, s.inputs = .quiet :: rest → step s = exec i { s with inputs := rest })) ∧
  (∀ (s : State) nbits w i, decodeTableWord nbits w = some i →
    step (s.withFetchWord nbits w) = exec i { s.start (tableWord nbits w) with rstHeld := false })

/-- R87: an accepted write of a legal command word. -/
def Obligations.CommandStartClearsTheStatus : Prop :=
  ∀ s v i rest, HostWrites s 0x02 v rest → decode v = .ok i →
    Gives (step s) { s with
      inputs := rest
      seq := .running v
      status := { done := false, err := .noError, softfb := false, errsticky := s.status.errsticky }
      errinfo := 0 }

/-- R84 after R87: a write of an illegal word starts and at once ends a command that only raises IllegalCommand. That the
word ends in the very step of the write is the model's reading (log 3, DEDUCED); `SOFTFB = 0` is the start's (R87). -/
def Obligations.IllegalWordRaisesAtOnce : Prop :=
  ∀ s v rest, HostWrites s 0x02 v rest →
    (v.toNat / 16 ≠ 0 ∨ v.toNat % 16 = 0 ∨ 8 ≤ v.toNat % 16) →
    Gives (step s) { s with
      inputs := rest
      status := { done := true, err := .illegalCommand, softfb := false, errsticky := true }
      errinfo := v }

/-- R66: while a command runs, writes are dropped, `STATUS` reads as `BUSY` with `ERRSTICKY` as it was, and any other read
changes only what stands at the port. -/
def Obligations.BusyMachineIgnoresTheHost : Prop :=
  ∀ s w rest, s.seq = .running w →
    (∀ a v, s.inputs = .write a v :: rest → Gives (step s) { s with inputs := rest }) ∧
    (∀ a, s.inputs = .read a :: rest →
      ∃ t, step s = .next t ∧ t = { s with inputs := rest, rdata := t.rdata, draws := t.draws } ∧
        (a = 0x03 → s.BusyClean → t.rdata = if s.status.errsticky then 0x201 else 0x001))

/-- R201: the block executes nothing until a command is written. -/
def Obligations.IdleMachineStaysIdle : Prop :=
  ∀ s, s.seq = .idle →
    (s.inputs = [] → Gives (step s) s) ∧
    (∀ rest, s.inputs = .quiet :: rest → Gives (step s) { s with inputs := rest })

/-- R86, R87, R88: `RUN mnemonic` on an idle block: the `CMD` write, the body on the started state, and the read of `STATUS`
that sees the end. That the sequencer has its turn between the two is the schedule `WAIT` stands for (log 4). -/
def Obligations.RunStartsExecutesAndReadsStatus : Prop :=
  ∀ (s : State) i rest, s.seq = .idle → s.rstHeld = false → s.inputs = run i ++ rest →
    ∃ t, exec i { s with
        inputs := .read 0x03 :: rest
        seq := .running (encode i)
        status := { done := false, err := .noError, softfb := false, errsticky := s.status.errsticky }
        errinfo := 0 } = .next t ∧
      ∃ d, Sys2Proof.core.run 3 s = .next ({ t with inputs := rest, rdata := t.statusWord, draws := d } : State)

/-- 93_implementation_defined.md section 2: no behaviour is undefined, so every step of every state answers a next state. -/
def Obligations.EveryStepAnswersANextState : Prop := ∀ s : State, Safe s

/-- R181: every command on every state completes, or raises one error and then writes nothing but `STATUS` and `ERRINFO`. -/
def Obligations.FailedCommandChangesOnlyStatus : Prop :=
  ∀ i s,
    (∃ t, exec i s = .next t ∧ t.seq = .idle ∧ t.status.done = true ∧ t.status.err = s.status.err ∧
      t.status.errsticky = s.status.errsticky ∧ t.errinfo = s.errinfo) ∨
    ∃ e : CmdError, Gives (exec i s) (raised s e.kind e.layout)

/-- R27, R176: the codes and the layout of `ERRINFO`. -/
def Obligations.ErrorCodesAndLayouts : Prop :=
  ErrKind.noError.code = 0 ∧
  (∀ c : SubCause, (CmdError.validation c).kind.code = 1 ∧
    ((CmdError.validation c).layout = match c with | .dim => 1 | .missing => 2 | .len => 3)) ∧
  (∀ i j, i < 64 → j < 64 → (CmdError.configuration i j).kind.code = 2 ∧
    (CmdError.configuration i j).layout.toNat = i + 2 ^ 8 * j) ∧
  (∀ a, a < 2 ^ 31 → (CmdError.internalInvariant a).kind.code = 3 ∧
    (CmdError.internalInvariant a).layout.toNat = a) ∧
  (∀ w, (CmdError.illegalCommand w).kind.code = 4 ∧ (CmdError.illegalCommand w).layout = w)

/-! ### Checks and their order -/

/-- R177, R178, R182: the dimension check comes first in every command that uses the dimensions. -/
def Obligations.BadDimensionsAreReportedFirst : Prop :=
  ∀ s, ¬ Dims s → ∀ i, i ∈ [Instr.genG, .deriveH, .buildTable, .decode, .getPrimary] →
    Gives (exec i s) (raised s .validationError 1)

/-- R177, R178, R182: then the matrix the command reads must be marked valid. -/
def Obligations.MissingMatrixIsReportedSecond : Prop :=
  ∀ s, Dims s →
    (s.gvalid = false → Gives (exec .deriveH s) (raised s .validationError 2)) ∧
    (s.hvalid = false → Gives (exec .buildTable s) (raised s .validationError 2) ∧
      Gives (exec .decode s) (raised s .validationError 2))

/-- R177, R178, R182: then the operand lengths. -/
def Obligations.WrongLengthIsReportedThird : Prop :=
  (∀ s, Dims s → s.lenA ≠ s.n →
    Gives (exec .getPrimary s) (raised s .validationError 3) ∧
    (s.hvalid = true → Gives (exec .decode s) (raised s .validationError 3))) ∧
  (∀ s, 32 < s.lenA.toNat ∨ 32 < s.lenB.toNat →
    Gives (exec .cntErr s) (raised s .validationError 3) ∧ Gives (exec .errPos s) (raised s .validationError 3))

/-- R112: the identity check scans row by row, reports the first offender, and looks at the left block only. -/
def Obligations.IdentityCheckReportsTheFirstOffender : Prop :=
  ∀ s, Dims s → s.gvalid = true →
    (∀ i j, i < s.k.toNat → j < s.k.toNat → entry s.matG i j ≠ decide (i = j) →
      (∀ i' j', i' < s.k.toNat → j' < s.k.toNat → (i' < i ∨ i' = i ∧ j' < j) → entry s.matG i' j' = decide (i' = j')) →
      Gives (exec .deriveH s) (raised s .configurationError (BitVec.ofNat 32 (i + 2 ^ 8 * j)))) ∧
    (LeftIdentity s → ∃ t, exec .deriveH s = .next t ∧ Ended s t)

/-- R139: the first lookup whose entry is not valid ends DECODE, whichever it is: that of the received vector, or that of
the flip at position `i`, after any flips kept and undone before. -/
def Obligations.LookupMissIsAnInternalError : Prop :=
  ∀ s, Dims s → s.hvalid = true → s.lenA = s.n →
    let first := synPacked s.matH (vec s.n.toNat s.va.toNat)
    let miss := fun a => Gives (exec .decode s) (raised s .internalInvariantError (BitVec.ofNat 32 a))
    (s.tmem.read first = none → miss first) ∧
    (∀ i, i < s.n.toNat → LookupsHit s i → (passAt s i).2 ≠ 0 →
      s.tmem.read (synPacked s.matH (flipAt (passAt s i).1 i)) = none →
      miss (synPacked s.matH (flipAt (passAt s i).1 i)))

/-! ### gf2_matrix_gen -/

/-- R101: GEN_G whole. -/
def Obligations.GenGWritesIdentityAndDrawnBits : Prop :=
  decode 0x00000001 = .ok .genG ∧
  ∀ s,
    (¬ Dims s → Gives (exec .genG s) (raised s .validationError 1)) ∧
    (Dims s →
      let n := s.n.toNat
      let k := s.k.toNat
      ∃ t, exec .genG s = .next t ∧ Ended s t ∧
        t = { s with
          seq := t.seq, status := t.status, gmem := t.gmem, gvalid := true,
          rnd := s.rnd.drop (k * (n - k)), cursor := s.cursor + k * (n - k), rdata := t.rdata, draws := t.draws } ∧
        (∀ i, i < k → t.gmem.read i = some (BitVec.ofNat 32
          (2 ^ (n - 1 - i) + digits (n - k) fun j => s.rndBit (i * (n - k) + j)))) ∧
        (∀ a, k ≤ a → t.gmem.read a = s.gmem.read a))

/-- R102: GEN_G is the only command that draws from the RND port. -/
def Obligations.OnlyGenGDrawsRandomBits : Prop :=
  ∀ i s t, exec i s = .next t → i ≠ .genG → t.rnd = s.rnd ∧ t.cursor = s.cursor

/-- R103: for every random stream and every earlier content of GMEM, the G of GEN_G is in standard form, has rank `k`, and
DERIVE_H accepts it. -/
def Obligations.GeneratedMatrixIsAccepted : Prop :=
  ∀ s, Dims s →
    ∃ t, exec .genG s = .next t ∧ LeftIdentity t ∧
      (∃ u, exec .deriveH t = .next u ∧ Ended t u) ∧
      (∀ m m' : Vec, m.length = s.k.toNat → m'.length = s.k.toNat →
        encodeMessage s.n.toNat m t.matG = encodeMessage s.n.toNat m' t.matG → m = m') ∧
      (∀ other : Memory Word, ∃ t', exec .genG { s with gmem := other } = .next t' ∧
        ∀ i, i < s.k.toNat → t'.gmem.read i = t.gmem.read i)

/-! ### parity_check_derivation -/

/-- R111: DERIVE_H whole. -/
def Obligations.DeriveHWritesTheTranspose : Prop :=
  decode 0x00000002 = .ok .deriveH ∧
  ∀ s,
    (¬ Dims s → Gives (exec .deriveH s) (raised s .validationError 1)) ∧
    (Dims s → s.gvalid = false → Gives (exec .deriveH s) (raised s .validationError 2)) ∧
    (Dims s → s.gvalid = true → ¬ LeftIdentity s →
      ∃ i j, i < s.k.toNat ∧ j < s.k.toNat ∧ entry s.matG i j ≠ decide (i = j) ∧
        (∀ i' j', i' < s.k.toNat → j' < s.k.toNat → (i' < i ∨ i' = i ∧ j' < j) →
          entry s.matG i' j' = decide (i' = j')) ∧
        Gives (exec .deriveH s) (raised s .configurationError (BitVec.ofNat 32 (i + 2 ^ 8 * j)))) ∧
    (Dims s → s.gvalid = true → LeftIdentity s →
      let n := s.n.toNat
      let k := s.k.toNat
      ∃ t, exec .deriveH s = .next t ∧ Ended s t ∧
        t = { s with
          seq := t.seq, status := t.status, hmem := t.hmem, hvalid := true, tmem := [],
          rdata := t.rdata, draws := t.draws } ∧
        (∀ j, j < n - k → t.hmem.read j = some (BitVec.ofNat 32
          (digits k (fun i => entry s.matG i (k + j)) * 2 ^ (n - k) + 2 ^ (n - k - 1 - j)))) ∧
        (∀ a, n - k ≤ a → t.hmem.read a = s.hmem.read a))

/-- R114: every row of G, as DERIVE_H read it, is orthogonal to every row of the H it wrote; so every codeword has zero
syndrome. -/
def Obligations.CodewordsLieInTheNullSpace : Prop :=
  ∀ s, Dims s → s.gvalid = true → LeftIdentity s →
    ∃ t, exec .deriveH s = .next t ∧
      (∀ i j, i < s.k.toNat → j < s.n.toNat - s.k.toNat → dot (s.matG.getD i []) (t.matH.getD j []) = false) ∧
      (∀ m c : Vec, encodeMessage s.n.toNat m s.matG = some c →
        c.length = s.n.toNat ∧ ∀ b ∈ syn t.matH c, b = false)

/-- R115: the H of DERIVE_H has the identity at its right, every syndrome occurs, and the single 1 at position `k + c` has
the unit syndrome `c`. -/
def Obligations.DerivedSyndromeMapIsOnto : Prop :=
  ∀ s, Dims s → s.gvalid = true → LeftIdentity s →
    let n := s.n.toNat
    let k := s.k.toNat
    ∃ t, exec .deriveH s = .next t ∧
      (∀ j c, j < n - k → c < n - k → entry t.matH j (k + c) = decide (j = c)) ∧
      (∀ a, a < 2 ^ (n - k) → ∃ v : Vec, v.length = n ∧ synPacked t.matH v = a) ∧
      (∀ c, c < n - k →
        syn t.matH ((List.range n).map fun p => decide (p = k + c)) = (List.range (n - k)).map fun j => decide (j = c))

/-! ### syndrome_table_builder -/

/-- R15: the syndrome is linear, and flipping element `i` adds column `i` of H. -/
def Obligations.SyndromeIsLinear : Prop :=
  ∀ (H : List Vec) (a : Vec),
    (∀ b : Vec, a.length = b.length → syn H (List.zipWith xor a b) = List.zipWith xor (syn H a) (syn H b)) ∧
    (∀ i, i < a.length → (∀ h ∈ H, h.length = a.length) →
      syn H (flipAt a i) = List.zipWith xor (syn H a) (column H i))

/-- R123: the order in which the walk takes the vectors, as far as it goes: every vector stands in it once, by weight
ascending and, inside one weight, by index ascending. -/
def Obligations.VisitingOrderIsByWeightThenIndex : Prop :=
  ∀ n : Nat,
    (visitOrder n).Pairwise (fun p q => p.1 < q.1 ∨ p.1 = q.1 ∧ p.2 < q.2) ∧
    ∀ w i, (w, i) ∈ visitOrder n ↔ i < 2 ^ n ∧ wt (vec n i) = w

/-- R121, R122: BUILD_TABLE completes on every H, writes TMEM only, records the zero syndrome with weight 0 and no address
from `2^r` on, and forgets every earlier table. -/
def Obligations.BuildTableWritesOnlyTheTable : Prop :=
  ∀ s, Dims s → s.hvalid = true →
    (∃ t, exec .buildTable s = .next t ∧ Ended s t ∧
      t = { s with seq := t.seq, status := t.status, tmem := t.tmem, rdata := t.rdata, draws := t.draws } ∧
      t.tmem.read 0 = some 0 ∧
      (∀ a, 2 ^ (s.n.toNat - s.k.toNat) ≤ a → t.tmem.read a = none) ∧
      (∀ old : Memory (BitVec 6), Gives (exec .buildTable { s with tmem := old }) t))

/-- R124: after BUILD_TABLE an address is valid iff some vector has that syndrome, and holds the least weight of these. -/
def Obligations.BuiltTableHoldsLeastWeights : Prop :=
  ∀ s, Dims s → s.hvalid = true →
    ∃ t, exec .buildTable s = .next t ∧
      ∀ a, a < 2 ^ (s.n.toNat - s.k.toNat) →
        ((t.tmem.read a).isSome ↔ ∃ v : Vec, v.length = s.n.toNat ∧ synPacked s.matH v = a) ∧
        (∀ w, t.tmem.read a = some w →
          (∃ v : Vec, v.length = s.n.toNat ∧ synPacked s.matH v = a ∧ wt v = w.toNat) ∧
          (∀ v : Vec, v.length = s.n.toNat → synPacked s.matH v = a → w.toNat ≤ wt v))

/-- R125: on an H whose syndrome map is onto, exactly the addresses below `2^r` are valid, `TCOUNT` reads `2^r`, and
`TMEM[0] = (1, 0)`; the last holds on every H. -/
def Obligations.BuiltTableIsComplete : Prop :=
  ∀ s, Dims s → s.hvalid = true →
    ∃ t, exec .buildTable s = .next t ∧ t.tmem.read 0 = some 0 ∧
      ((∀ a, a < 2 ^ (s.n.toNat - s.k.toNat) → ∃ v : Vec, v.length = s.n.toNat ∧ synPacked s.matH v = a) →
        (∀ a, (t.tmem.read a).isSome ↔ a < 2 ^ (s.n.toNat - s.k.toNat)) ∧
        (t.regValue .tcount).toNat = 2 ^ (s.n.toNat - s.k.toNat))

/-- R126, R139: after BUILD_TABLE on an H that has been written, of any rank, DECODE meets no lookup miss. -/
def Obligations.DecodeAfterBuildNeverMisses : Prop :=
  ∀ s x, Dims s → s.hvalid = true → HWritten s →
    ∃ t, exec .buildTable s = .next t ∧
      ∃ u, exec .decode { t with va := x, lenA := s.n } = .next u ∧
        Ended { t with va := x, lenA := s.n } u

/-! ### syndrome_lookup_decoder -/

/-- R136, where no lookup of the pass misses: DECODE is one pass over the positions in index order, keeping a flip iff it
lowers the table weight, and it changes nothing but its result registers. -/
def Obligations.DecodeIsOneGreedyPass : Prop :=
  ∀ s, Dims s → s.hvalid = true → s.lenA = s.n → LookupsHit s s.n.toNat →
    let final := passAt s s.n.toNat
    ∃ t, exec .decode s = .next t ∧ Ended s t ∧
      t = { s with
        seq := t.seq, status := t.status, vr := t.vr, lenR := s.n, res := t.res, rdata := t.rdata, draws := t.draws } ∧
      t.vr = BitVec.ofNat 32 (digits s.n.toNat fun j => final.1.getD j false) ∧ t.res.toNat = final.2

/-- R138, R142: whenever DECODE completes, it has changed its result registers only, `RES` is the table weight of the
syndrome of the vector in `VR`, and not above the weight of the received vector's syndrome. -/
def Obligations.DecodeReportsTheRemainingWeight : Prop :=
  ∀ s t, Dims s → s.hvalid = true → s.lenA = s.n → exec .decode s = .next t →
    t.status.err ≠ .internalInvariantError →
    Ended s t ∧
    t = { s with
      seq := t.seq, status := t.status, vr := t.vr, lenR := s.n, res := t.res, rdata := t.rdata, draws := t.draws } ∧
    s.tmem.read (synPacked s.matH (vec s.n.toNat t.vr.toNat)) = some t.res ∧
    ∃ w, s.tmem.read (synPacked s.matH (vec s.n.toNat s.va.toNat)) = some w ∧ t.res ≤ w

/-- R140: a vector of zero syndrome is returned unchanged, where entry 0 has weight 0; and DECODE applied to its own result
returns it again whenever `RES = 0`. -/
def Obligations.DecodeReturnsCodewordsUnchanged : Prop :=
  ∀ s, Dims s → s.hvalid = true → s.lenA = s.n →
    (synPacked s.matH (vec s.n.toNat s.va.toNat) = 0 → s.tmem.read 0 = some 0 →
      ∃ t, exec .decode s = .next t ∧ Ended s t ∧ t.vr.toNat = s.va.toNat % 2 ^ s.n.toNat ∧ t.lenR = s.n ∧ t.res = 0) ∧
    (∀ t, HWritten s → exec .decode s = .next t → t.status.err ≠ .internalInvariantError → t.res = 0 →
      ∃ u, exec .decode { t with va := t.vr } = .next u ∧ Ended { t with va := t.vr } u ∧ u.vr = t.vr ∧ u.res = 0)

/-- R141, item 3: with the exact table of the H in HMEM, DECODE always reaches weight 0, its result has zero syndrome, and
the flips it kept are the leader of the received vector's syndrome with the largest packed value. -/
def Obligations.ExactTableDecodesByALeader : Prop :=
  ∀ s, Dims s → s.hvalid = true → s.lenA = s.n → ExactTable s →
    ∃ t, exec .decode s = .next t ∧ Ended s t ∧ t.res = 0 ∧
      let n := s.n.toNat
      let rv := vec n s.va.toNat
      let e := List.zipWith xor (vec n t.vr.toNat) rv
      synPacked s.matH (vec n t.vr.toNat) = 0 ∧
      synPacked s.matH e = synPacked s.matH rv ∧
      s.tmem.read (synPacked s.matH rv) = some (BitVec.ofNat 6 (wt e)) ∧
      (∀ u : Vec, u.length = n → synPacked s.matH u = synPacked s.matH rv → wt e ≤ wt u ∧ (wt u = wt e → pack u ≤ pack e))

/-- R179: an InternalInvariantError is not a retryable condition: on an H that has been written, the same DECODE raises it
again. -/
def Obligations.RepeatedDecodeRaisesAgain : Prop :=
  ∀ s a, Dims s → s.hvalid = true → s.lenA = s.n → HWritten s →
    Gives (exec .decode s) (raised s .internalInvariantError a) →
    ∃ t, exec .decode s = .next t ∧ Gives (exec .decode t) (raised s .internalInvariantError a)

/-- R146: the noiseless round trip through the block: DERIVE_H, BUILD_TABLE, DECODE of a codeword, GET_PRIMARY. -/
def Obligations.NoiselessRoundTripReturnsTheMessage : Prop :=
  ∀ s, Dims s → s.gvalid = true → LeftIdentity s →
    ∀ m c : Vec, encodeMessage s.n.toNat m s.matG = some c →
      ∃ t1 t2 t3 t4,
        exec .deriveH s = .next t1 ∧ Ended s t1 ∧ exec .buildTable t1 = .next t2 ∧ Ended t1 t2 ∧
        exec .decode { t2 with va := packWord c, lenA := s.n } = .next t3 ∧
        t3.vr = packWord c ∧ t3.res = 0 ∧ Ended { t2 with va := packWord c, lenA := s.n } t3 ∧
        exec .getPrimary { t3 with va := t3.vr } = .next t4 ∧
        t4.vr = packWord m ∧ t4.lenR = s.k ∧ Ended { t3 with va := t3.vr } t4

/-- R143: GET_PRIMARY whole. -/
def Obligations.GetPrimaryCutsTheLeadingBits : Prop :=
  decode 0x00000005 = .ok .getPrimary ∧
  ∀ s,
    (¬ Dims s → Gives (exec .getPrimary s) (raised s .validationError 1)) ∧
    (Dims s → s.lenA ≠ s.n → Gives (exec .getPrimary s) (raised s .validationError 3)) ∧
    (Dims s → s.lenA = s.n →
      Gives (exec .getPrimary s) { s with
        seq := .idle
        status := { s.status with done := true }
        vr := BitVec.ofNat 32 ((s.va.toNat % 2 ^ s.n.toNat) >>> (s.n.toNat - s.k.toNat))
        lenR := s.k })

/-! ### hamming_distance_engine -/

/-- R156: CNT_ERR whole. -/
def Obligations.CntErrCountsDifferingBits : Prop :=
  decode 0x00000006 = .ok .cntErr ∧
  ∀ s,
    (32 < s.lenA.toNat ∨ 32 < s.lenB.toNat → Gives (exec .cntErr s) (raised s .validationError 3)) ∧
    (s.lenA.toNat ≤ 32 → s.lenB.toNat ≤ 32 → s.lenA ≠ s.lenB →
      Gives (exec .cntErr s) { s with
        seq := .idle, status := { s.status with done := true, softfb := true }, res := 0 }) ∧
    (s.lenA.toNat ≤ 32 → s.lenA = s.lenB →
      ∃ t, exec .cntErr s = .next t ∧ Ended s t ∧
        t = { s with seq := t.seq, status := t.status, res := t.res, rdata := t.rdata, draws := t.draws } ∧
        t.res.toNat = (List.range s.lenA.toNat).countP fun b => (s.va ^^^ s.vb).getLsbD b)

/-- R158: ERR_POS whole. -/
def Obligations.ErrPosListsDifferingIndices : Prop :=
  decode 0x00000007 = .ok .errPos ∧
  ∀ s,
    (32 < s.lenA.toNat ∨ 32 < s.lenB.toNat → Gives (exec .errPos s) (raised s .validationError 3)) ∧
    (s.lenA.toNat ≤ 32 → s.lenB.toNat ≤ 32 → s.lenA ≠ s.lenB →
      Gives (exec .errPos s) { s with
        seq := .idle, status := { s.status with done := true, softfb := true }
        pcnt := 0, plist := Vector.replicate 32 0 }) ∧
    (s.lenA.toNat ≤ 32 → s.lenA = s.lenB →
      let differs := fun j => (s.va ^^^ s.vb).getLsbD (s.lenA.toNat - 1 - j) = true
      ∃ t, exec .errPos s = .next t ∧ Ended s t ∧
        t = { s with
          seq := t.seq, status := t.status, pcnt := t.pcnt, plist := t.plist, rdata := t.rdata, draws := t.draws } ∧
        t.pcnt.toNat ≤ 32 ∧
        (∀ x : Fin 32, x.val < t.pcnt.toNat →
          (t.plist.get x).toNat < s.lenA.toNat ∧ differs (t.plist.get x).toNat) ∧
        (∀ j, j < s.lenA.toNat → differs j → ∃ x : Fin 32, x.val < t.pcnt.toNat ∧ (t.plist.get x).toNat = j) ∧
        (∀ x y : Fin 32, x < y → y.val < t.pcnt.toNat → t.plist.get x < t.plist.get y) ∧
        (∀ x : Fin 32, t.pcnt.toNat ≤ x.val → t.plist.get x = 0))

/-- R159: for the same operands `PCNT` after ERR_POS is `RES` after CNT_ERR, and neither writes the other's results. -/
def Obligations.CountAndListAgree : Prop :=
  ∀ s, s.lenA.toNat ≤ 32 → s.lenB.toNat ≤ 32 →
    ∃ t u, exec .cntErr s = .next t ∧ exec .errPos s = .next u ∧ t.res = u.pcnt ∧
      u.res = s.res ∧ t.pcnt = s.pcnt ∧ t.plist = s.plist

/-- R160: the distance engine depends on nothing but its four operands: two states that agree on them, whatever their
dimensions, matrices and table, get the same result, flag and error; with both lengths 0, as after reset, `RES = 0` and
`PCNT = 0`, and `SOFTFB` is not set. -/
def Obligations.DistanceEngineIgnoresTheCode : Prop :=
  (∀ s u, s.va = u.va → s.lenA = u.lenA → s.vb = u.vb → s.lenB = u.lenB → s.status = u.status →
    (∃ s' u', exec .cntErr s = .next s' ∧ exec .cntErr u = .next u' ∧ s'.status = u'.status ∧
      (s.lenA.toNat ≤ 32 → s.lenB.toNat ≤ 32 → s'.res = u'.res)) ∧
    (∃ s' u', exec .errPos s = .next s' ∧ exec .errPos u = .next u' ∧ s'.status = u'.status ∧
      (s.lenA.toNat ≤ 32 → s.lenB.toNat ≤ 32 → s'.pcnt = u'.pcnt ∧ s'.plist = u'.plist))) ∧
  (∀ s, s.lenA = 0 → s.lenB = 0 →
    ∃ t u, exec .cntErr s = .next t ∧ exec .errPos s = .next u ∧ t.res = 0 ∧ u.pcnt = 0 ∧
      t.status.softfb = s.status.softfb ∧ u.status.softfb = s.status.softfb)

/-! ### The register interface -/

/-- R29: any write to `N` or `K`, whatever the value, clears both `MVALID` bits and the table, in the same step. -/
def Obligations.WritingDimensionsDropsTheCode : Prop :=
  ∀ s v rest,
    (HostWrites s 0x06 v rest → Gives (step s) { s with
      inputs := rest, n := BitVec.ofNat 6 (v.toNat % 64), gvalid := false, hvalid := false, tmem := [] }) ∧
    (HostWrites s 0x07 v rest → Gives (step s) { s with
      inputs := rest, k := BitVec.ofNat 6 (v.toNat % 64), gvalid := false, hvalid := false, tmem := [] })

/-- R38: any write to an implemented HMEM word invalidates the table and leaves `MVALID` alone; so does a successful
DERIVE_H invalidate it. -/
def Obligations.WritingHmemInvalidatesTheTable : Prop :=
  (∀ s (a : BitVec 7) v rest, HostWrites s a v rest → 0x40 ≤ a.toNat → a.toNat ≤ 0x40 + s.lastRow.val →
    ∃ t, step s = .next t ∧
      t = { s with inputs := rest, hmem := t.hmem, tmem := [], rdata := t.rdata, draws := t.draws } ∧
      t.hmem.read (a.toNat - 0x40) = some v ∧
      ∀ b, b ≠ a.toNat - 0x40 → t.hmem.read b = s.hmem.read b) ∧
  (∀ s t, Dims s → s.gvalid = true → LeftIdentity s → exec .deriveH s = .next t → t.tmem = [])

/-- R36: a write to an implemented GMEM word changes that word and nothing else, not even `GVALID`. -/
def Obligations.WritingGmemChangesOnlyThatRow : Prop :=
  ∀ s (a : BitVec 7) v rest, HostWrites s a v rest → 0x20 ≤ a.toNat → a.toNat ≤ 0x20 + s.lastRow.val →
    ∃ t, step s = .next t ∧ t = { s with inputs := rest, gmem := t.gmem, rdata := t.rdata, draws := t.draws } ∧
      t.gmem.read (a.toNat - 0x20) = some v ∧ t.regValue (.gmem (Fin.ofNat 32 (a.toNat - 0x20))) = v ∧
      ∀ b, b ≠ a.toNat - 0x20 → t.gmem.read b = s.gmem.read b

/-- R41: `TADDR` keeps `N_MAX − 1` bits; `TDATA` reads and writes the one entry at `TADDR`, and `TADDR` does not move. -/
def Obligations.TableWindowReadsAndWritesOneEntry : Prop :=
  (∀ s v rest, HostWrites s 0x11 v rest →
    Gives (step s) { s with inputs := rest, taddr := BitVec.ofNat 32 (v.toNat % 2 ^ s.lastRow.val) }) ∧
  (∀ s v rest, HostWrites s 0x12 v rest →
    ∃ t, step s = .next t ∧ t = { s with inputs := rest, tmem := t.tmem, rdata := t.rdata, draws := t.draws } ∧
      (v.getLsbD 31 = true → t.tmem.read s.taddr.toNat = some (BitVec.ofNat 6 (v.toNat % 64)) ∧
        (t.regValue .tdata).toNat = 2 ^ 31 + v.toNat % 64) ∧
      (v.getLsbD 31 = false → t.tmem.read s.taddr.toNat = none ∧ t.regValue .tdata = 0) ∧
      ∀ a, a ≠ s.taddr.toNat → t.tmem.read a = s.tmem.read a) ∧
  (∀ s rest, s.seq = .idle → s.inputs = .read 0x12 :: rest →
    ∃ t, step s = .next t ∧ t = { s with inputs := rest, rdata := t.rdata, draws := t.draws } ∧
      (∀ w, s.tmem.read s.taddr.toNat = some w → t.rdata.toNat = 2 ^ 31 + w.toNat) ∧
      (s.tmem.read s.taddr.toNat = none → t.rdata = 0))

/-- R42: `TCOUNT` reads the number of addresses below `T_DEPTH` whose entry is valid. -/
def Obligations.TcountCountsTheValidEntries : Prop :=
  ∀ s : State, s.MemoriesWf →
    (s.regValue .tcount).toNat = (List.range (2 ^ s.lastRow.val)).countP fun a => (s.tmem.read a).isSome

/-- R25: the fields of `STATUS`, and its two write-one-to-clear bits. -/
def Obligations.StatusFieldsAndAcknowledge : Prop :=
  (∀ s : State, s.statusWord.toNat = s.busy.toNat + 2 * s.status.done.toNat + 2 ^ 4 * s.status.err.code.toNat +
      2 ^ 8 * s.status.softfb.toNat + 2 ^ 9 * s.status.errsticky.toNat) ∧
  (∀ s v rest, HostWrites s 0x03 v rest →
    ∃ t, step s = .next t ∧ t = { s with inputs := rest, status := t.status, rdata := t.rdata, draws := t.draws } ∧
      t.status.err = s.status.err ∧ t.status.softfb = s.status.softfb ∧
      (t.status.done = true ↔ s.status.done = true ∧ v.getLsbD 1 = false) ∧
      (t.status.errsticky = true ↔ s.status.errsticky = true ∧ v.getLsbD 9 = false))

/-- R186: `irq = CTRL.IE & STATUS.DONE`; it is raised by every completion and falls at the host's W1C write, at the next
accepted `CMD` write, at reset, and when `IE` is written 0. That the completion of an illegal word, and so `irq`, comes in
the very step of its `CMD` write is the model's reading (log 3, DEDUCED). -/
def Obligations.InterruptFollowsIeAndDone : Prop :=
  (∀ s : State, s.irq = true ↔ s.ie = true ∧ s.status.done = true) ∧
  (∀ i s, s.ie = true → ∃ t, exec i s = .next t ∧ t.irq = true) ∧
  (∀ s v rest, HostWrites s 0x03 v rest → v.getLsbD 1 = true → ∃ t, step s = .next t ∧ t.irq = false) ∧
  (∀ s v i rest, HostWrites s 0x02 v rest → decode v = .ok i → ∃ t, step s = .next t ∧ t.irq = false) ∧
  (∀ s v e rest, HostWrites s 0x02 v rest → decode v = .error e → s.ie = true → ∃ t, step s = .next t ∧ t.irq = true) ∧
  (∀ s v rest, HostWrites s 0x04 v rest →
    ∃ t, step s = .next t ∧ t = { s with inputs := rest, ie := t.ie, rdata := t.rdata, draws := t.draws } ∧
      (t.ie = true ↔ v.getLsbD 0 = true)) ∧
  (∀ s rest, s.inputs = .rst true :: rest → ∃ t, step s = .next t ∧ t.ie = false ∧ t.irq = false)

/-- R61: the reserved addresses and the unimplemented rows read 0, and they and the read-only registers ignore writes. -/
def Obligations.UnwritableAddressesIgnoreWrites : Prop :=
  ∀ s (a : BitVec 7),
    let noRow := (0x20 + s.lastRow.val < a.toNat ∧ a.toNat < 0x40) ∨ (0x40 + s.lastRow.val < a.toNat ∧ a.toNat < 0x60)
    let reservedAddr := 0x14 ≤ a.toNat ∧ a.toNat < 0x20
    let readOnly := a.toNat ∈ [0x00, 0x01, 0x05, 0x0D, 0x0E, 0x0F, 0x10, 0x13] ∨ 0x60 ≤ a.toNat
    (noRow ∨ reservedAddr ∨ readOnly → ∀ v rest, HostWrites s a v rest → Gives (step s) { s with inputs := rest }) ∧
    (noRow ∨ reservedAddr → ∀ rest, s.seq = .idle → s.inputs = .read a :: rest →
      ∃ t, step s = .next t ∧ t = { s with inputs := rest, rdata := 0, draws := t.draws })

/-- R26, R30, R31, R32: what the read-write registers hold after a host write, the reserved bits of `MVALID` and `CTRL`
reading 0, and that nothing else changes. -/
def Obligations.ReadWriteRegistersKeepTheirBits : Prop :=
  ∀ s v rest,
    (HostWrites s 0x09 v rest → Gives (step s) { s with inputs := rest, va := v }) ∧
    (HostWrites s 0x0A v rest → Gives (step s) { s with inputs := rest, lenA := BitVec.ofNat 6 (v.toNat % 64) }) ∧
    (HostWrites s 0x0B v rest → Gives (step s) { s with inputs := rest, vb := v }) ∧
    (HostWrites s 0x0C v rest → Gives (step s) { s with inputs := rest, lenB := BitVec.ofNat 6 (v.toNat % 64) }) ∧
    (HostWrites s 0x08 v rest →
      ∃ t, step s = .next t ∧
        t = { s with
          inputs := rest, gvalid := t.gvalid, hvalid := t.hvalid, rdata := t.rdata, draws := t.draws } ∧
        (t.regValue .mvalid).toNat = v.toNat % 4) ∧
    (HostWrites s 0x04 v rest →
      ∃ t, step s = .next t ∧ t = { s with inputs := rest, ie := t.ie, rdata := t.rdata, draws := t.draws } ∧
        (t.regValue .ctrl).toNat = v.toNat % 2)

/-- R63, R65, R22 to R42: a read of an idle block answers the register at its address, at every address, and changes
nothing but the port. The words of `STATUS` and `TCOUNT` are those of R25 and R42; an implemented row that nothing has
written reads as any value (log 7). -/
def Obligations.ReadsHaveNoSideEffect : Prop :=
  ∀ s (a : BitVec 7) rest, s.seq = .idle → s.inputs = .read a :: rest →
    ∃ t, step s = .next t ∧ t = { s with inputs := rest, rdata := t.rdata, draws := t.draws } ∧
      (∀ r : Reg, a = r.addr → t.rdata = s.regValue r) ∧
      (a = 0x00 → t.rdata = 0x43544801) ∧
      (a = 0x01 → t.rdata.toNat = s.lastRow.val + 1) ∧
      (a = 0x02 → t.rdata = 0) ∧
      (a = 0x03 → t.rdata.toNat = 2 * s.status.done.toNat + 2 ^ 4 * s.status.err.code.toNat +
        2 ^ 8 * s.status.softfb.toNat + 2 ^ 9 * s.status.errsticky.toNat) ∧
      (a = 0x04 → t.rdata.toNat = s.ie.toNat) ∧
      (a = 0x05 → t.rdata = s.errinfo) ∧
      (a = 0x06 → t.rdata.toNat = s.n.toNat) ∧
      (a = 0x07 → t.rdata.toNat = s.k.toNat) ∧
      (a = 0x08 → t.rdata.toNat = s.gvalid.toNat + 2 * s.hvalid.toNat) ∧
      (a = 0x09 → t.rdata = s.va) ∧
      (a = 0x0A → t.rdata.toNat = s.lenA.toNat) ∧
      (a = 0x0B → t.rdata = s.vb) ∧
      (a = 0x0C → t.rdata.toNat = s.lenB.toNat) ∧
      (a = 0x0D → t.rdata = s.vr) ∧
      (a = 0x0E → t.rdata.toNat = s.lenR.toNat) ∧
      (a = 0x0F → t.rdata.toNat = s.res.toNat) ∧
      (a = 0x10 → t.rdata.toNat = s.pcnt.toNat) ∧
      (a = 0x11 → t.rdata = s.taddr) ∧
      (a = 0x12 → t.rdata.toNat = ((s.tmem.read s.taddr.toNat).map fun w => 2 ^ 31 + w.toNat).getD 0) ∧
      (a = 0x13 → s.MemoriesWf →
        t.rdata.toNat = (List.range (2 ^ s.lastRow.val)).countP fun b => (s.tmem.read b).isSome) ∧
      (0x14 ≤ a.toNat → a.toNat < 0x20 → t.rdata = 0) ∧
      (∀ i : Fin 32, a.toNat = 0x60 + i.val → t.rdata.toNat = (s.plist.get i).toNat) ∧
      (∀ i : Fin 32, a.toNat = 0x20 + i.val →
        (s.lastRow < i → t.rdata = 0) ∧ (∀ w, i ≤ s.lastRow → s.gmem.read i.val = some w → t.rdata = w)) ∧
      (∀ i : Fin 32, a.toNat = 0x40 + i.val →
        (s.lastRow < i → t.rdata = 0) ∧ (∀ w, i ≤ s.lastRow → s.hmem.read i.val = some w → t.rdata = w))

/-! ### Rules about the whole machine -/

/-- R31, R32, R28, R26, R41, R7: no command writes an operand, a dimension, `CTRL` or `TADDR`, and `N_MAX` never changes.
That the port's output, the reset input and the environment's inputs stay as they are is the model's (logs 4, 5, 11). -/
def Obligations.NoCommandWritesItsOperands : Prop :=
  (∀ i s t, exec i s = .next t →
    t.va = s.va ∧ t.lenA = s.lenA ∧ t.vb = s.vb ∧ t.lenB = s.lenB ∧ t.n = s.n ∧ t.k = s.k ∧ t.ie = s.ie ∧
    t.taddr = s.taddr ∧ t.rdata = s.rdata ∧ t.rstHeld = s.rstHeld ∧ t.inputs = s.inputs) ∧
  (∀ s t, step s = .next t → t.lastRow = s.lastRow)

/-- R43: nothing clears a valid bit of the table but reset, a write to `N`, `K` or an implemented HMEM row, a `TDATA` write
with bit 31 = 0 at that address, a successful DERIVE_H, and BUILD_TABLE after its checks pass. -/
def Obligations.ValidBitsFallOnlyByTheListedCauses : Prop :=
  ∀ s t a, step s = .next t → (s.tmem.read a).isSome → t.tmem.read a = none →
    ResetNow s ∨
    (∃ (d : BitVec 7) (v : Word) (rest : List Input), HostWrites s d v rest ∧
      (d = 0x06 ∨ d = 0x07 ∨ (0x40 ≤ d.toNat ∧ d.toNat ≤ 0x40 + s.lastRow.val) ∨
        (d = 0x12 ∧ s.taddr.toNat = a ∧ v.getLsbD 31 = false))) ∨
    (RunsNow s .deriveH ∧ Dims s ∧ s.gvalid = true ∧ LeftIdentity s) ∨
    (RunsNow s .buildTable ∧ Dims s ∧ s.hvalid = true)

/-- R25, R183: `ERRSTICKY` falls only by the host's W1C write or by reset. -/
def Obligations.ErrstickyFallsOnlyByHostOrReset : Prop :=
  ∀ s t, step s = .next t → s.status.errsticky = true → t.status.errsticky = false →
    ResetNow s ∨ (∃ v rest, HostWrites s 0x03 v rest ∧ v.getLsbD 9 = true)

/-- R30, R48: a matrix is marked valid only by its command's success or by the host's write to `MVALID`. -/
def Obligations.MatrixFlagsRiseOnlyByTheListedCauses : Prop :=
  ∀ s t, step s = .next t →
    (s.gvalid = false → t.gvalid = true →
      (∃ v rest, HostWrites s 0x08 v rest ∧ v.getLsbD 0 = true) ∨
      (RunsNow s .genG ∧ Dims s)) ∧
    (s.hvalid = false → t.hvalid = true →
      (∃ v rest, HostWrites s 0x08 v rest ∧ v.getLsbD 1 = true) ∨
      (RunsNow s .deriveH ∧ Dims s ∧ s.gvalid = true ∧ LeftIdentity s))

/-! ### Reset -/

/-- R201: the state when `rst` is asserted while no command runs, and that it executes nothing by itself. That a row of
GMEM or HMEM is unspecified is said as the model holds it, a row not written (log 7, DEDUCED); the model's own fields and
the port (logs 4, 5, 12) are not part of the rule. -/
def Obligations.ResetLeavesTheListedValues : Prop :=
  ∀ s rest, s.seq = .idle → s.inputs = .rst true :: rest →
    ∃ t, step s = .next t ∧ ResetValues t s.lastRow ∧ t.rnd = s.rnd ∧ t.cursor = s.cursor ∧
      (rest = [] → Gives (step t) t)

/-- R202: `rst` asserted during a command abandons it: the values of R201 (rows as in log 7), and RND bits already consumed
stay consumed. That they are none but for GEN_G (R102), and at most those it asks for, is log 10's deduction. -/
def Obligations.ResetAbandonsTheCommand : Prop :=
  ∀ s w rest, s.seq = .running w → s.inputs = .rst true :: rest →
    ∃ t m, step s = .next t ∧ ResetValues t s.lastRow ∧
      t.rnd = s.rnd.drop m ∧ t.cursor = s.cursor + m ∧ m ≤ s.k.toNat * (s.n.toNat - s.k.toNat) ∧
      (decode w ≠ .ok .genG → m = 0)

/-- R200: the state has the values of R201 from the assertion of `rst`, through every transaction that comes while it is
asserted, to its release. What a transaction does meanwhile is deduced (log 11); rows as in log 7. -/
def Obligations.AssertedResetHoldsItsValues : Prop :=
  (∀ s rest, s.inputs = .rst true :: rest → ∃ t, step s = .next t ∧ t.rstHeld = true ∧ ResetValues t s.lastRow) ∧
  (∀ s, s.rstHeld = true → ResetValues s s.lastRow → (∀ rest, s.inputs ≠ .rst false :: rest) →
    ∃ t, step s = .next t ∧ t.rstHeld = true ∧ ResetValues t s.lastRow ∧ t.rnd = s.rnd ∧ t.cursor = s.cursor) ∧
  (∀ s rest, s.rstHeld = true → s.inputs = .rst false :: rest →
    ∃ t, step s = .next t ∧ t.rstHeld = false ∧ ResetValues t s.lastRow) ∧
  (∀ s rest, s.rstHeld = false → s.inputs = .rst false :: rest → Gives (step s) { s with inputs := rest })

/-- The invariant holds right after reset (R201; `N_MAX = 16` there is log 1's choice). -/
def Obligations.ResetMeetsTheInvariant : Prop := State.Inv State.reset

/-- The invariant of Safety.lean is kept by every step of every state, reachable or not: the memories stay canonical and in
range, `TADDR` in range, `STATUS` clean while busy (R66), `ERRINFO` laid out by `ERR` (R27), the soft fallback no error
(R184), results packed (R12, R33), positions ordered (R35), the values of R201 while `rst` is asserted (R200). -/
def Obligations.EveryStepKeepsTheInvariant : Prop :=
  ∀ s t : State, s.Inv → step s = .next t → t.Inv

/-! ### The environment's reference functions -/

/-- R169: the comparison of Transmit is `≤`: at `pe = 1` every bit is flipped, at `pe = 0` a bit is flipped iff its draw is
exactly 0. -/
def Obligations.TransmitComparesWithLessOrEqual : Prop :=
  ∀ (c : Vec) (u : List Rat), u.length = c.length → (∀ x ∈ u, 0 ≤ x ∧ x < 1) →
    transmit c 1 u = c.map not ∧
    (∀ j, j < c.length → (transmit c 0 u).getD j false = xor (c.getD j false) (decide (u.getD j 0 = 0))) ∧
    ((∀ x ∈ u, x ≠ 0) → transmit c 0 u = c)
end

