-- ==== Sys2Proof/Laws/Encoding.lean ====
section
/-! SUPPORT. The laws of the decoder and the encoder. -/

namespace Sys2Proof

/-- The decoder reads exactly the encoder's word of a command. -/
theorem commandOf_encode (i : Instr) : commandOf (encode i) = some i := by cases i <;> decide

/-- The fields of a word make the word. -/
theorem wordOfFields_fieldsOf (w : Word) : wordOfFields (fieldsOf w) = w := by
  apply BitVec.eq_of_getLsbD_eq
  intro i hi
  simp only [wordOfFields, fieldsOf]
  rw [BitVec.getLsbD_append]
  split
  · simp_all
  · have h : 4 + (i - 4) = i := by omega
    have h' : i - 4 < 28 := by omega
    simp [h, h']

/-- What `decode` answers, in terms of the fields (R82, R84). -/
theorem decode_eq (w : Word) :
    decode w = if (fieldsOf w).rsv ≠ 0 then .error .reservedBitsSet
      else match opcodeMap.lookup (fieldsOf w).op with
        | some i => .ok i
        | none => .error .unusedOpcode := rfl

/-- `commandOf` and `decode` agree. -/
theorem commandOf_eq_some {w : Word} {i : Instr} : commandOf w = some i ↔ decode w = .ok i := by
  unfold commandOf
  split <;> simp [*]

theorem commandOf_eq_none {w : Word} : commandOf w = none ↔ ∃ e, decode w = .error e := by
  unfold commandOf
  split <;> simp [*]

end Sys2Proof
end

