-- ==== Sys2Proof/Laws/Memory.lean ====
section
/-! SUPPORT. The laws of the word memories: what a read answers after a write or an erase, and that every memory operation
keeps the canonical form and the address bound. -/

namespace Sys2Proof.Machine

variable {α : Type}

@[simp] theorem Memory.read_nil (a : Nat) : Memory.read ([] : Memory α) a = none := rfl

/-- A read after a write to the same address gives the value written. -/
@[simp] theorem Memory.read_write_same (m : Memory α) (a : Nat) (x : α) : (m.write a x).read a = some x := by
  induction m with
  | nil => simp [Memory.write, Memory.read]
  | cons c m ih =>
    obtain ⟨b, y⟩ := c
    simp only [Memory.write]
    split
    · simp [Memory.read]
    · split
      · simp [Memory.read]
      · simp [Memory.read, *]

/-- A write leaves every other address alone. -/
theorem Memory.read_write_other (m : Memory α) {a b : Nat} (x : α) (h : b ≠ a) : (m.write a x).read b = m.read b := by
  induction m with
  | nil => simp [Memory.write, Memory.read, h]
  | cons c m ih =>
    obtain ⟨d, y⟩ := c
    simp only [Memory.write]
    split
    · simp [Memory.read, h]
    · split
      · subst_vars; simp [Memory.read, h]
      · simp [Memory.read, ih]

/-- A read after a write. -/
theorem Memory.read_write (m : Memory α) (a b : Nat) (x : α) :
    (m.write a x).read b = if b = a then some x else m.read b := by
  split
  · subst_vars; simp
  · exact m.read_write_other x ‹_›

@[simp] theorem Memory.read_erase_same (m : Memory α) (a : Nat) : (m.erase a).read a = none := by
  induction m with
  | nil => rfl
  | cons c m ih =>
    obtain ⟨b, y⟩ := c
    by_cases h : b = a
    · simpa [Memory.erase, h] using ih
    · have h' : a ≠ b := fun e => h e.symm
      simpa [Memory.erase, h, Memory.read, h'] using ih

theorem Memory.read_erase_other (m : Memory α) {a b : Nat} (h : b ≠ a) : (m.erase a).read b = m.read b := by
  induction m with
  | nil => rfl
  | cons c m ih =>
    obtain ⟨d, y⟩ := c
    by_cases hd : d = a
    · subst hd
      simpa [Memory.erase, Memory.read, h] using ih
    · by_cases hb : b = d
      · subst hb; simp [Memory.erase, Memory.read, hd]
      · simpa [Memory.erase, Memory.read, hd, hb] using ih

/-- What is listed after a write: the new cell, or a cell listed before at another address or the same. -/
theorem Memory.mem_write {m : Memory α} {a : Nat} {x : α} {c : Nat × α} (h : c ∈ m.write a x) : c = (a, x) ∨ c ∈ m := by
  induction m with
  | nil => simpa [Memory.write] using h
  | cons d m ih =>
    obtain ⟨b, y⟩ := d
    simp only [Memory.write] at h
    split at h
    · simpa using h
    · split at h
      · rcases List.mem_cons.1 h with h | h
        · exact .inl h
        · exact .inr (List.mem_cons_of_mem _ h)
      · rcases List.mem_cons.1 h with h | h
        · exact .inr (h ▸ List.mem_cons_self)
        · exact (ih h).imp id (List.mem_cons_of_mem _)

/-- A write keeps the canonical form. -/
theorem Memory.wf_write {m : Memory α} (h : m.wf) (a : Nat) (x : α) : (m.write a x).wf := by
  induction m with
  | nil => simp [Memory.wf, Memory.write]
  | cons c m ih =>
    obtain ⟨b, y⟩ := c
    simp only [Memory.wf, List.map_cons, List.pairwise_cons] at h
    have hm := ih h.2
    simp only [Memory.write]
    split
    · rename_i hab
      simp only [Memory.wf, List.map_cons, List.pairwise_cons]
      refine ⟨fun d hd => ?_, h⟩
      rcases List.mem_cons.1 hd with hd | hd
      · exact hd ▸ hab
      · exact Nat.lt_trans hab (h.1 d hd)
    · split
      · subst_vars; simpa [Memory.wf] using h
      · simp only [Memory.wf, List.map_cons, List.pairwise_cons]
        refine ⟨fun d hd => ?_, hm⟩
        obtain ⟨c, hc, rfl⟩ := List.mem_map.1 hd
        rcases Memory.mem_write hc with rfl | hc
        · show b < a
          omega
        · exact h.1 _ (List.mem_map_of_mem hc)

/-- An erase keeps the canonical form. -/
theorem Memory.wf_erase {m : Memory α} (h : m.wf) (a : Nat) : (m.erase a).wf :=
  h.sublist (List.filter_sublist.map Prod.fst)

theorem Memory.within_nil (bound : Nat) : Memory.within ([] : Memory α) bound := by simp [Memory.within, Memory.wf]

/-- A write below the bound keeps the canonical form and the bound. -/
theorem Memory.within_write {m : Memory α} {bound : Nat} (h : m.within bound) {a : Nat} (ha : a < bound) (x : α) :
    (m.write a x).within bound :=
  ⟨Memory.wf_write h.1 a x, fun c hc => by
    rcases Memory.mem_write hc with rfl | hc
    · exact ha
    · exact h.2 c hc⟩

theorem Memory.within_erase {m : Memory α} {bound : Nat} (h : m.within bound) (a : Nat) : (m.erase a).within bound :=
  ⟨Memory.wf_erase h.1 a, fun c hc => h.2 c (List.mem_filter.1 hc).1⟩

/-- Row writes change the rows they store to and no other. -/
theorem Memory.read_writeRows (m : Memory Word) (i : Nat) (ws : List Word) (b : Nat) :
    (m.writeRows i ws).read b = if i ≤ b ∧ b < i + ws.length then ws[b - i]? else m.read b := by
  induction ws generalizing m i with
  | nil =>
    have h : ¬(i ≤ b ∧ b < i) := by omega
    simp [Memory.writeRows, h]
  | cons w ws ih =>
    simp only [Memory.writeRows, ih, List.length_cons, Memory.read_write]
    by_cases hb : b = i
    · subst hb
      simp
    · by_cases h : i ≤ b ∧ b < i + (ws.length + 1)
      · have h1 : i + 1 ≤ b ∧ b < i + 1 + ws.length := by omega
        have h2 : b - i = b - (i + 1) + 1 := by omega
        simp [h, h1, h2]
      · have h1 : ¬(i + 1 ≤ b ∧ b < i + 1 + ws.length) := by omega
        rw [if_neg h1, if_neg h, if_neg hb]

/-- Row writes below the bound keep the canonical form and the bound. -/
theorem Memory.within_writeRows {m : Memory Word} {bound : Nat} (h : m.within bound) (i : Nat) (ws : List Word)
    (hi : i + ws.length ≤ bound) : (m.writeRows i ws).within bound := by
  induction ws generalizing m i with
  | nil => exact h
  | cons w ws ih =>
    simp only [List.length_cons] at hi
    exact ih (Memory.within_write h (by omega) w) (i + 1) (by omega)

end Sys2Proof.Machine
end

