-- ==== Sys2Proof/Laws/RegMap.lean ====
section
/-! SUPPORT. The register map, address by address and region by region (10_state.md section 2, R61). -/

namespace Sys2Proof.Machine

/-- The register map is a map: the address of a register names that register. -/
theorem regAt_addr (r : Reg) : regAt r.addr = r := by
  cases r with
  | gmem i => revert i; decide
  | hmem i => revert i; decide
  | plist i => revert i; decide
  | _ => decide

@[simp] theorem regAt_id : regAt 0#7 = .id := by decide
@[simp] theorem regAt_param : regAt 1#7 = .param := by decide
@[simp] theorem regAt_cmd : regAt 2#7 = .cmd := by decide
@[simp] theorem regAt_status : regAt 3#7 = .status := by decide
@[simp] theorem regAt_ctrl : regAt 4#7 = .ctrl := by decide
@[simp] theorem regAt_errinfo : regAt 5#7 = .errinfo := by decide
@[simp] theorem regAt_n : regAt 6#7 = .n := by decide
@[simp] theorem regAt_k : regAt 7#7 = .k := by decide
@[simp] theorem regAt_mvalid : regAt 8#7 = .mvalid := by decide
@[simp] theorem regAt_va : regAt 9#7 = .va := by decide
@[simp] theorem regAt_lenA : regAt 10#7 = .lenA := by decide
@[simp] theorem regAt_vb : regAt 11#7 = .vb := by decide
@[simp] theorem regAt_lenB : regAt 12#7 = .lenB := by decide
@[simp] theorem regAt_vr : regAt 13#7 = .vr := by decide
@[simp] theorem regAt_lenR : regAt 14#7 = .lenR := by decide
@[simp] theorem regAt_res : regAt 15#7 = .res := by decide
@[simp] theorem regAt_pcnt : regAt 16#7 = .pcnt := by decide
@[simp] theorem regAt_taddr : regAt 17#7 = .taddr := by decide
@[simp] theorem regAt_tdata : regAt 18#7 = .tdata := by decide
@[simp] theorem regAt_tcount : regAt 19#7 = .tcount := by decide

/-- The reserved addresses (R61). -/
theorem regAt_reserved {a : BitVec 7} (h1 : 0x14 ≤ a.toNat) (h2 : a.toNat < 0x20) : regAt a = .reserved := by
  have h3 : fixedRegs.length ≤ a.toNat := h1
  simp [regAt, h2, List.getD_eq_getElem?_getD, List.getElem?_eq_none h3]

/-- The rows of GMEM. -/
theorem regAt_gmem {a : BitVec 7} (h1 : 0x20 ≤ a.toNat) (h2 : a.toNat < 0x40) :
    regAt a = .gmem ⟨a.toNat - 0x20, by omega⟩ := by
  rw [regAt, if_neg (by omega), if_pos h2]
  congr 1
  apply Fin.ext
  simp only [regionIndex, Fin.ofNat]
  omega

/-- The rows of HMEM. -/
theorem regAt_hmem {a : BitVec 7} (h1 : 0x40 ≤ a.toNat) (h2 : a.toNat < 0x60) :
    regAt a = .hmem ⟨a.toNat - 0x40, by omega⟩ := by
  rw [regAt, if_neg (by omega), if_neg (by omega), if_pos h2]
  congr 1
  apply Fin.ext
  simp only [regionIndex, Fin.ofNat]
  omega

/-- The entries of PLIST. -/
theorem regAt_plist {a : BitVec 7} (h : 0x60 ≤ a.toNat) :
    regAt a = .plist ⟨a.toNat - 0x60, by have := a.isLt; omega⟩ := by
  have := a.isLt
  rw [regAt, if_neg (by omega), if_neg (by omega), if_neg (by omega)]
  congr 1
  apply Fin.ext
  simp only [regionIndex, Fin.ofNat]
  omega

end Sys2Proof.Machine
end

