-- ==== Sys2Proof/Laws/State.lean ====
section
/-! SUPPORT. One lemma per field per update of the shared operations, true by rfl, so that no later proof unfolds a record
update. -/

namespace Sys2Proof.Machine

variable (s : State)

/-! `State.start` -/

@[simp] theorem State.start_lastRow (w : Word) : (s.start w).lastRow = s.lastRow := rfl
@[simp] theorem State.start_seq (w : Word) : (s.start w).seq = .running w := rfl
@[simp] theorem State.start_status (w : Word) : (s.start w).status = { s.status with done := false, err := .noError, softfb := false } := rfl
@[simp] theorem State.start_ie (w : Word) : (s.start w).ie = s.ie := rfl
@[simp] theorem State.start_errinfo (w : Word) : (s.start w).errinfo = 0 := rfl
@[simp] theorem State.start_n (w : Word) : (s.start w).n = s.n := rfl
@[simp] theorem State.start_k (w : Word) : (s.start w).k = s.k := rfl
@[simp] theorem State.start_gvalid (w : Word) : (s.start w).gvalid = s.gvalid := rfl
@[simp] theorem State.start_hvalid (w : Word) : (s.start w).hvalid = s.hvalid := rfl
@[simp] theorem State.start_va (w : Word) : (s.start w).va = s.va := rfl
@[simp] theorem State.start_lenA (w : Word) : (s.start w).lenA = s.lenA := rfl
@[simp] theorem State.start_vb (w : Word) : (s.start w).vb = s.vb := rfl
@[simp] theorem State.start_lenB (w : Word) : (s.start w).lenB = s.lenB := rfl
@[simp] theorem State.start_vr (w : Word) : (s.start w).vr = s.vr := rfl
@[simp] theorem State.start_lenR (w : Word) : (s.start w).lenR = s.lenR := rfl
@[simp] theorem State.start_res (w : Word) : (s.start w).res = s.res := rfl
@[simp] theorem State.start_pcnt (w : Word) : (s.start w).pcnt = s.pcnt := rfl
@[simp] theorem State.start_plist (w : Word) : (s.start w).plist = s.plist := rfl
@[simp] theorem State.start_taddr (w : Word) : (s.start w).taddr = s.taddr := rfl
@[simp] theorem State.start_gmem (w : Word) : (s.start w).gmem = s.gmem := rfl
@[simp] theorem State.start_hmem (w : Word) : (s.start w).hmem = s.hmem := rfl
@[simp] theorem State.start_tmem (w : Word) : (s.start w).tmem = s.tmem := rfl
@[simp] theorem State.start_rdata (w : Word) : (s.start w).rdata = s.rdata := rfl
@[simp] theorem State.start_rstHeld (w : Word) : (s.start w).rstHeld = s.rstHeld := rfl
@[simp] theorem State.start_rnd (w : Word) : (s.start w).rnd = s.rnd := rfl
@[simp] theorem State.start_cursor (w : Word) : (s.start w).cursor = s.cursor := rfl
@[simp] theorem State.start_inputs (w : Word) : (s.start w).inputs = s.inputs := rfl
@[simp] theorem State.start_draws (w : Word) : (s.start w).draws = s.draws := rfl

/-! `State.complete` -/

@[simp] theorem State.complete_lastRow : s.complete.lastRow = s.lastRow := rfl
@[simp] theorem State.complete_seq : s.complete.seq = .idle := rfl
@[simp] theorem State.complete_status : s.complete.status = { s.status with done := true } := rfl
@[simp] theorem State.complete_ie : s.complete.ie = s.ie := rfl
@[simp] theorem State.complete_errinfo : s.complete.errinfo = s.errinfo := rfl
@[simp] theorem State.complete_n : s.complete.n = s.n := rfl
@[simp] theorem State.complete_k : s.complete.k = s.k := rfl
@[simp] theorem State.complete_gvalid : s.complete.gvalid = s.gvalid := rfl
@[simp] theorem State.complete_hvalid : s.complete.hvalid = s.hvalid := rfl
@[simp] theorem State.complete_va : s.complete.va = s.va := rfl
@[simp] theorem State.complete_lenA : s.complete.lenA = s.lenA := rfl
@[simp] theorem State.complete_vb : s.complete.vb = s.vb := rfl
@[simp] theorem State.complete_lenB : s.complete.lenB = s.lenB := rfl
@[simp] theorem State.complete_vr : s.complete.vr = s.vr := rfl
@[simp] theorem State.complete_lenR : s.complete.lenR = s.lenR := rfl
@[simp] theorem State.complete_res : s.complete.res = s.res := rfl
@[simp] theorem State.complete_pcnt : s.complete.pcnt = s.pcnt := rfl
@[simp] theorem State.complete_plist : s.complete.plist = s.plist := rfl
@[simp] theorem State.complete_taddr : s.complete.taddr = s.taddr := rfl
@[simp] theorem State.complete_gmem : s.complete.gmem = s.gmem := rfl
@[simp] theorem State.complete_hmem : s.complete.hmem = s.hmem := rfl
@[simp] theorem State.complete_tmem : s.complete.tmem = s.tmem := rfl
@[simp] theorem State.complete_rdata : s.complete.rdata = s.rdata := rfl
@[simp] theorem State.complete_rstHeld : s.complete.rstHeld = s.rstHeld := rfl
@[simp] theorem State.complete_rnd : s.complete.rnd = s.rnd := rfl
@[simp] theorem State.complete_cursor : s.complete.cursor = s.cursor := rfl
@[simp] theorem State.complete_inputs : s.complete.inputs = s.inputs := rfl
@[simp] theorem State.complete_draws : s.complete.draws = s.draws := rfl

/-! `State.raise` -/

@[simp] theorem State.raise_lastRow (e : CmdError) : (s.raise e).lastRow = s.lastRow := rfl
@[simp] theorem State.raise_seq (e : CmdError) : (s.raise e).seq = .idle := rfl
@[simp] theorem State.raise_status (e : CmdError) : (s.raise e).status = { s.status with done := true, err := e.kind, errsticky := true } := rfl
@[simp] theorem State.raise_ie (e : CmdError) : (s.raise e).ie = s.ie := rfl
@[simp] theorem State.raise_errinfo (e : CmdError) : (s.raise e).errinfo = e.layout := rfl
@[simp] theorem State.raise_n (e : CmdError) : (s.raise e).n = s.n := rfl
@[simp] theorem State.raise_k (e : CmdError) : (s.raise e).k = s.k := rfl
@[simp] theorem State.raise_gvalid (e : CmdError) : (s.raise e).gvalid = s.gvalid := rfl
@[simp] theorem State.raise_hvalid (e : CmdError) : (s.raise e).hvalid = s.hvalid := rfl
@[simp] theorem State.raise_va (e : CmdError) : (s.raise e).va = s.va := rfl
@[simp] theorem State.raise_lenA (e : CmdError) : (s.raise e).lenA = s.lenA := rfl
@[simp] theorem State.raise_vb (e : CmdError) : (s.raise e).vb = s.vb := rfl
@[simp] theorem State.raise_lenB (e : CmdError) : (s.raise e).lenB = s.lenB := rfl
@[simp] theorem State.raise_vr (e : CmdError) : (s.raise e).vr = s.vr := rfl
@[simp] theorem State.raise_lenR (e : CmdError) : (s.raise e).lenR = s.lenR := rfl
@[simp] theorem State.raise_res (e : CmdError) : (s.raise e).res = s.res := rfl
@[simp] theorem State.raise_pcnt (e : CmdError) : (s.raise e).pcnt = s.pcnt := rfl
@[simp] theorem State.raise_plist (e : CmdError) : (s.raise e).plist = s.plist := rfl
@[simp] theorem State.raise_taddr (e : CmdError) : (s.raise e).taddr = s.taddr := rfl
@[simp] theorem State.raise_gmem (e : CmdError) : (s.raise e).gmem = s.gmem := rfl
@[simp] theorem State.raise_hmem (e : CmdError) : (s.raise e).hmem = s.hmem := rfl
@[simp] theorem State.raise_tmem (e : CmdError) : (s.raise e).tmem = s.tmem := rfl
@[simp] theorem State.raise_rdata (e : CmdError) : (s.raise e).rdata = s.rdata := rfl
@[simp] theorem State.raise_rstHeld (e : CmdError) : (s.raise e).rstHeld = s.rstHeld := rfl
@[simp] theorem State.raise_rnd (e : CmdError) : (s.raise e).rnd = s.rnd := rfl
@[simp] theorem State.raise_cursor (e : CmdError) : (s.raise e).cursor = s.cursor := rfl
@[simp] theorem State.raise_inputs (e : CmdError) : (s.raise e).inputs = s.inputs := rfl
@[simp] theorem State.raise_draws (e : CmdError) : (s.raise e).draws = s.draws := rfl

/-! `State.invalidateTable` -/

@[simp] theorem State.invalidateTable_lastRow : s.invalidateTable.lastRow = s.lastRow := rfl
@[simp] theorem State.invalidateTable_seq : s.invalidateTable.seq = s.seq := rfl
@[simp] theorem State.invalidateTable_status : s.invalidateTable.status = s.status := rfl
@[simp] theorem State.invalidateTable_ie : s.invalidateTable.ie = s.ie := rfl
@[simp] theorem State.invalidateTable_errinfo : s.invalidateTable.errinfo = s.errinfo := rfl
@[simp] theorem State.invalidateTable_n : s.invalidateTable.n = s.n := rfl
@[simp] theorem State.invalidateTable_k : s.invalidateTable.k = s.k := rfl
@[simp] theorem State.invalidateTable_gvalid : s.invalidateTable.gvalid = s.gvalid := rfl
@[simp] theorem State.invalidateTable_hvalid : s.invalidateTable.hvalid = s.hvalid := rfl
@[simp] theorem State.invalidateTable_va : s.invalidateTable.va = s.va := rfl
@[simp] theorem State.invalidateTable_lenA : s.invalidateTable.lenA = s.lenA := rfl
@[simp] theorem State.invalidateTable_vb : s.invalidateTable.vb = s.vb := rfl
@[simp] theorem State.invalidateTable_lenB : s.invalidateTable.lenB = s.lenB := rfl
@[simp] theorem State.invalidateTable_vr : s.invalidateTable.vr = s.vr := rfl
@[simp] theorem State.invalidateTable_lenR : s.invalidateTable.lenR = s.lenR := rfl
@[simp] theorem State.invalidateTable_res : s.invalidateTable.res = s.res := rfl
@[simp] theorem State.invalidateTable_pcnt : s.invalidateTable.pcnt = s.pcnt := rfl
@[simp] theorem State.invalidateTable_plist : s.invalidateTable.plist = s.plist := rfl
@[simp] theorem State.invalidateTable_taddr : s.invalidateTable.taddr = s.taddr := rfl
@[simp] theorem State.invalidateTable_gmem : s.invalidateTable.gmem = s.gmem := rfl
@[simp] theorem State.invalidateTable_hmem : s.invalidateTable.hmem = s.hmem := rfl
@[simp] theorem State.invalidateTable_tmem : s.invalidateTable.tmem = [] := rfl
@[simp] theorem State.invalidateTable_rdata : s.invalidateTable.rdata = s.rdata := rfl
@[simp] theorem State.invalidateTable_rstHeld : s.invalidateTable.rstHeld = s.rstHeld := rfl
@[simp] theorem State.invalidateTable_rnd : s.invalidateTable.rnd = s.rnd := rfl
@[simp] theorem State.invalidateTable_cursor : s.invalidateTable.cursor = s.cursor := rfl
@[simp] theorem State.invalidateTable_inputs : s.invalidateTable.inputs = s.inputs := rfl
@[simp] theorem State.invalidateTable_draws : s.invalidateTable.draws = s.draws := rfl

/-! `State.countDraw` -/

@[simp] theorem State.countDraw_lastRow : s.countDraw.lastRow = s.lastRow := rfl
@[simp] theorem State.countDraw_seq : s.countDraw.seq = s.seq := rfl
@[simp] theorem State.countDraw_status : s.countDraw.status = s.status := rfl
@[simp] theorem State.countDraw_ie : s.countDraw.ie = s.ie := rfl
@[simp] theorem State.countDraw_errinfo : s.countDraw.errinfo = s.errinfo := rfl
@[simp] theorem State.countDraw_n : s.countDraw.n = s.n := rfl
@[simp] theorem State.countDraw_k : s.countDraw.k = s.k := rfl
@[simp] theorem State.countDraw_gvalid : s.countDraw.gvalid = s.gvalid := rfl
@[simp] theorem State.countDraw_hvalid : s.countDraw.hvalid = s.hvalid := rfl
@[simp] theorem State.countDraw_va : s.countDraw.va = s.va := rfl
@[simp] theorem State.countDraw_lenA : s.countDraw.lenA = s.lenA := rfl
@[simp] theorem State.countDraw_vb : s.countDraw.vb = s.vb := rfl
@[simp] theorem State.countDraw_lenB : s.countDraw.lenB = s.lenB := rfl
@[simp] theorem State.countDraw_vr : s.countDraw.vr = s.vr := rfl
@[simp] theorem State.countDraw_lenR : s.countDraw.lenR = s.lenR := rfl
@[simp] theorem State.countDraw_res : s.countDraw.res = s.res := rfl
@[simp] theorem State.countDraw_pcnt : s.countDraw.pcnt = s.pcnt := rfl
@[simp] theorem State.countDraw_plist : s.countDraw.plist = s.plist := rfl
@[simp] theorem State.countDraw_taddr : s.countDraw.taddr = s.taddr := rfl
@[simp] theorem State.countDraw_gmem : s.countDraw.gmem = s.gmem := rfl
@[simp] theorem State.countDraw_hmem : s.countDraw.hmem = s.hmem := rfl
@[simp] theorem State.countDraw_tmem : s.countDraw.tmem = s.tmem := rfl
@[simp] theorem State.countDraw_rdata : s.countDraw.rdata = s.rdata := rfl
@[simp] theorem State.countDraw_rstHeld : s.countDraw.rstHeld = s.rstHeld := rfl
@[simp] theorem State.countDraw_rnd : s.countDraw.rnd = s.rnd := rfl
@[simp] theorem State.countDraw_cursor : s.countDraw.cursor = s.cursor := rfl
@[simp] theorem State.countDraw_inputs : s.countDraw.inputs = s.inputs := rfl
@[simp] theorem State.countDraw_draws : s.countDraw.draws = s.draws + 1 := rfl

/-! `State.takeRnd` -/

@[simp] theorem State.takeRnd_lastRow (m : Nat) : (s.takeRnd m).lastRow = s.lastRow := rfl
@[simp] theorem State.takeRnd_seq (m : Nat) : (s.takeRnd m).seq = s.seq := rfl
@[simp] theorem State.takeRnd_status (m : Nat) : (s.takeRnd m).status = s.status := rfl
@[simp] theorem State.takeRnd_ie (m : Nat) : (s.takeRnd m).ie = s.ie := rfl
@[simp] theorem State.takeRnd_errinfo (m : Nat) : (s.takeRnd m).errinfo = s.errinfo := rfl
@[simp] theorem State.takeRnd_n (m : Nat) : (s.takeRnd m).n = s.n := rfl
@[simp] theorem State.takeRnd_k (m : Nat) : (s.takeRnd m).k = s.k := rfl
@[simp] theorem State.takeRnd_gvalid (m : Nat) : (s.takeRnd m).gvalid = s.gvalid := rfl
@[simp] theorem State.takeRnd_hvalid (m : Nat) : (s.takeRnd m).hvalid = s.hvalid := rfl
@[simp] theorem State.takeRnd_va (m : Nat) : (s.takeRnd m).va = s.va := rfl
@[simp] theorem State.takeRnd_lenA (m : Nat) : (s.takeRnd m).lenA = s.lenA := rfl
@[simp] theorem State.takeRnd_vb (m : Nat) : (s.takeRnd m).vb = s.vb := rfl
@[simp] theorem State.takeRnd_lenB (m : Nat) : (s.takeRnd m).lenB = s.lenB := rfl
@[simp] theorem State.takeRnd_vr (m : Nat) : (s.takeRnd m).vr = s.vr := rfl
@[simp] theorem State.takeRnd_lenR (m : Nat) : (s.takeRnd m).lenR = s.lenR := rfl
@[simp] theorem State.takeRnd_res (m : Nat) : (s.takeRnd m).res = s.res := rfl
@[simp] theorem State.takeRnd_pcnt (m : Nat) : (s.takeRnd m).pcnt = s.pcnt := rfl
@[simp] theorem State.takeRnd_plist (m : Nat) : (s.takeRnd m).plist = s.plist := rfl
@[simp] theorem State.takeRnd_taddr (m : Nat) : (s.takeRnd m).taddr = s.taddr := rfl
@[simp] theorem State.takeRnd_gmem (m : Nat) : (s.takeRnd m).gmem = s.gmem := rfl
@[simp] theorem State.takeRnd_hmem (m : Nat) : (s.takeRnd m).hmem = s.hmem := rfl
@[simp] theorem State.takeRnd_tmem (m : Nat) : (s.takeRnd m).tmem = s.tmem := rfl
@[simp] theorem State.takeRnd_rdata (m : Nat) : (s.takeRnd m).rdata = s.rdata := rfl
@[simp] theorem State.takeRnd_rstHeld (m : Nat) : (s.takeRnd m).rstHeld = s.rstHeld := rfl
@[simp] theorem State.takeRnd_rnd (m : Nat) : (s.takeRnd m).rnd = s.rnd.drop m := rfl
@[simp] theorem State.takeRnd_cursor (m : Nat) : (s.takeRnd m).cursor = s.cursor + m := rfl
@[simp] theorem State.takeRnd_inputs (m : Nat) : (s.takeRnd m).inputs = s.inputs := rfl
@[simp] theorem State.takeRnd_draws (m : Nat) : (s.takeRnd m).draws = s.draws := rfl

/-! `State.dropCode` -/

@[simp] theorem State.dropCode_lastRow : s.dropCode.lastRow = s.lastRow := rfl
@[simp] theorem State.dropCode_seq : s.dropCode.seq = s.seq := rfl
@[simp] theorem State.dropCode_status : s.dropCode.status = s.status := rfl
@[simp] theorem State.dropCode_ie : s.dropCode.ie = s.ie := rfl
@[simp] theorem State.dropCode_errinfo : s.dropCode.errinfo = s.errinfo := rfl
@[simp] theorem State.dropCode_n : s.dropCode.n = s.n := rfl
@[simp] theorem State.dropCode_k : s.dropCode.k = s.k := rfl
@[simp] theorem State.dropCode_gvalid : s.dropCode.gvalid = false := rfl
@[simp] theorem State.dropCode_hvalid : s.dropCode.hvalid = false := rfl
@[simp] theorem State.dropCode_va : s.dropCode.va = s.va := rfl
@[simp] theorem State.dropCode_lenA : s.dropCode.lenA = s.lenA := rfl
@[simp] theorem State.dropCode_vb : s.dropCode.vb = s.vb := rfl
@[simp] theorem State.dropCode_lenB : s.dropCode.lenB = s.lenB := rfl
@[simp] theorem State.dropCode_vr : s.dropCode.vr = s.vr := rfl
@[simp] theorem State.dropCode_lenR : s.dropCode.lenR = s.lenR := rfl
@[simp] theorem State.dropCode_res : s.dropCode.res = s.res := rfl
@[simp] theorem State.dropCode_pcnt : s.dropCode.pcnt = s.pcnt := rfl
@[simp] theorem State.dropCode_plist : s.dropCode.plist = s.plist := rfl
@[simp] theorem State.dropCode_taddr : s.dropCode.taddr = s.taddr := rfl
@[simp] theorem State.dropCode_gmem : s.dropCode.gmem = s.gmem := rfl
@[simp] theorem State.dropCode_hmem : s.dropCode.hmem = s.hmem := rfl
@[simp] theorem State.dropCode_tmem : s.dropCode.tmem = [] := rfl
@[simp] theorem State.dropCode_rdata : s.dropCode.rdata = s.rdata := rfl
@[simp] theorem State.dropCode_rstHeld : s.dropCode.rstHeld = s.rstHeld := rfl
@[simp] theorem State.dropCode_rnd : s.dropCode.rnd = s.rnd := rfl
@[simp] theorem State.dropCode_cursor : s.dropCode.cursor = s.cursor := rfl
@[simp] theorem State.dropCode_inputs : s.dropCode.inputs = s.inputs := rfl
@[simp] theorem State.dropCode_draws : s.dropCode.draws = s.draws := rfl

/-! `State.resetValues`: the values of R201 -/

@[simp] theorem State.resetValues_lastRow : s.resetValues.lastRow = s.lastRow := rfl
@[simp] theorem State.resetValues_seq : s.resetValues.seq = .idle := rfl
@[simp] theorem State.resetValues_status : s.resetValues.status = { done := false, err := .noError, softfb := false, errsticky := false } := rfl
@[simp] theorem State.resetValues_ie : s.resetValues.ie = false := rfl
@[simp] theorem State.resetValues_errinfo : s.resetValues.errinfo = 0 := rfl
@[simp] theorem State.resetValues_n : s.resetValues.n = 0 := rfl
@[simp] theorem State.resetValues_k : s.resetValues.k = 0 := rfl
@[simp] theorem State.resetValues_gvalid : s.resetValues.gvalid = false := rfl
@[simp] theorem State.resetValues_hvalid : s.resetValues.hvalid = false := rfl
@[simp] theorem State.resetValues_va : s.resetValues.va = 0 := rfl
@[simp] theorem State.resetValues_lenA : s.resetValues.lenA = 0 := rfl
@[simp] theorem State.resetValues_vb : s.resetValues.vb = 0 := rfl
@[simp] theorem State.resetValues_lenB : s.resetValues.lenB = 0 := rfl
@[simp] theorem State.resetValues_vr : s.resetValues.vr = 0 := rfl
@[simp] theorem State.resetValues_lenR : s.resetValues.lenR = 0 := rfl
@[simp] theorem State.resetValues_res : s.resetValues.res = 0 := rfl
@[simp] theorem State.resetValues_pcnt : s.resetValues.pcnt = 0 := rfl
@[simp] theorem State.resetValues_plist : s.resetValues.plist = Vector.replicate 32 0 := rfl
@[simp] theorem State.resetValues_taddr : s.resetValues.taddr = 0 := rfl
@[simp] theorem State.resetValues_gmem : s.resetValues.gmem = [] := rfl
@[simp] theorem State.resetValues_hmem : s.resetValues.hmem = [] := rfl
@[simp] theorem State.resetValues_tmem : s.resetValues.tmem = [] := rfl
@[simp] theorem State.resetValues_rdata : s.resetValues.rdata = s.rdata := rfl
@[simp] theorem State.resetValues_rstHeld : s.resetValues.rstHeld = s.rstHeld := rfl
@[simp] theorem State.resetValues_rnd : s.resetValues.rnd = s.rnd := rfl
@[simp] theorem State.resetValues_cursor : s.resetValues.cursor = s.cursor := rfl
@[simp] theorem State.resetValues_inputs : s.resetValues.inputs = s.inputs := rfl
@[simp] theorem State.resetValues_draws : s.resetValues.draws = s.draws := rfl

end Sys2Proof.Machine
end

