-- ==== Sys2Proof/Laws/Ops.lean ====
section
/-! SUPPORT. One lemma per shared operation that says what it can do: the host's reads and writes, the
checks, reset. -/

namespace Sys2Proof.Machine

@[simp] theorem State.busy_idle {s : State} (h : s.seq = .idle) : s.busy = false := by simp [State.busy, h]

@[simp] theorem State.busy_running {s : State} {w : Word} (h : s.seq = .running w) : s.busy = true := by
  simp [State.busy, h]

/-- A host read changes the port and the draw counter, nothing else (R65). -/
theorem State.hostRead_eq (s : State) (a : BitVec 7) :
    s.hostRead a = { s with rdata := s.portValue (regAt a), draws := s.draws + 1 } := rfl

/-- While a command runs, a host write is dropped (R66). -/
theorem State.hostWrite_busy (s : State) (a : BitVec 7) (v : Word) (h : s.busy = true) : s.hostWrite a v = s := by
  simp [State.hostWrite, h]

/-- While `rst` is asserted, a host write is without effect (R200). -/
theorem State.hostWrite_held (s : State) (a : BitVec 7) (v : Word) (h : s.rstHeld = true) : s.hostWrite a v = s := by
  simp [State.hostWrite, h]

/-- While no command runs, a host write acts on the register at its address (R64). -/
theorem State.hostWrite_idle (s : State) (a : BitVec 7) (v : Word) (h : s.busy = false) (hr : s.rstHeld = false) :
    s.hostWrite a v = s.writeReg v (regAt a) := by simp [State.hostWrite, h, hr]

/-- A write of a legal word to `CMD` starts the command (R87). -/
theorem State.writeCmd_legal (s : State) {c : Word} {i : Instr} (h : decode c = .ok i) : s.writeCmd c = s.start c := by
  simp [State.writeCmd, h]

/-- A write of an illegal word to `CMD` ends at once in IllegalCommand (R84). -/
theorem State.writeCmd_illegal (s : State) {c : Word} {e : DecodeError} (h : decode c = .error e) :
    s.writeCmd c = (s.start c).raise (.illegalCommand c) := by simp [State.writeCmd, h]

/-- What is raised by a list of checks: its first entry whose condition holds (R182). -/
theorem firstRaise_cons (c : Bool) (e : CmdError) (rest : List (Bool × CmdError)) :
    firstRaise ((c, e) :: rest) = if c then some e else firstRaise rest := rfl

@[simp] theorem firstRaise_nil : firstRaise [] = none := rfl

/-- Nothing is raised iff every condition fails. -/
theorem firstRaise_eq_none {l : List (Bool × CmdError)} : firstRaise l = none ↔ ∀ p ∈ l, p.1 = false := by
  induction l with
  | nil => simp
  | cons p l ih =>
    obtain ⟨c, e⟩ := p
    cases c <;> simp [firstRaise_cons, ih]

/-- An abandoned command has consumed at most the bits GEN_G asks for (R202). -/
theorem State.abandonedRnd_le (s : State) : s.abandonedRnd ≤ s.kVal * s.rVal := by
  unfold State.abandonedRnd
  split
  · exact Nat.zero_le _
  · split
    · exact Nat.lt_succ_iff.1 (Nat.mod_lt _ (Nat.succ_pos _))
    · exact Nat.zero_le _

/-- An idle sequencer has consumed nothing that a reset could leave behind. -/
theorem State.abandonedRnd_idle {s : State} (h : s.seq = .idle) : s.abandonedRnd = 0 := by
  simp [State.abandonedRnd, h]

/-- Asserting `rst` leaves the values of R201, whatever ran (R200, R202). -/
theorem State.rst_assert (s : State) :
    s.rst true = { (s.takeRnd s.abandonedRnd).resetValues with rstHeld := true, draws := s.draws + 1 } := rfl

/-- Releasing an asserted `rst` leaves the values of R201 too (R200). -/
theorem State.rst_release {s : State} (h : s.rstHeld = true) :
    s.rst false = { (s.takeRnd s.abandonedRnd).resetValues with rstHeld := false, draws := s.draws + 1 } := by
  simp [State.rst, h]

/-- Releasing an `rst` that is not asserted changes nothing. -/
theorem State.rst_released {s : State} (h : s.rstHeld = false) : s.rst false = s := by simp [State.rst, h]

/-- Everything `rst` can do. -/
theorem State.rst_cases (s : State) (level : Bool) :
    (level = false ∧ s.rstHeld = false ∧ s.rst level = s) ∨
    ((level = true ∨ s.rstHeld = true) ∧
      s.rst level = { (s.takeRnd s.abandonedRnd).resetValues with rstHeld := level, draws := s.draws + 1 }) := by
  cases level with
  | true => exact .inr ⟨.inl rfl, s.rst_assert⟩
  | false =>
    cases h : s.rstHeld with
    | true => exact .inr ⟨.inr rfl, State.rst_release h⟩
    | false => exact .inl ⟨rfl, rfl, State.rst_released h⟩

end Sys2Proof.Machine
end

