-- ==== Sys2Proof/Laws/Vectors.lean ====
section
/-! SUPPORT. The laws of vectors, packing and syndromes (R11, R12, R14, R15). -/

namespace Sys2Proof.Machine

@[simp] theorem length_vec (L x : Nat) : (vec L x).length = L := by simp [vec]

/-- Element `j` of `vec_L(x)` is bit `L − 1 − j` of `x`. -/
theorem getD_vec {L j : Nat} (x : Nat) (h : j < L) : (vec L x).getD j false = x.testBit (L - 1 - j) := by
  simp [vec, List.getD_eq_getElem?_getD, h]

@[simp] theorem pack_nil : pack [] = 0 := rfl

/-- Packing appends at the least significant end. -/
theorem pack_append (u v : Vec) : pack (u ++ v) = pack u * 2 ^ v.length + pack v := by
  have shift : ∀ (v : Vec) (acc : Nat),
      v.foldl (fun acc b => 2 * acc + b.toNat) acc = acc * 2 ^ v.length + pack v := by
    intro v
    induction v with
    | nil => simp [pack]
    | cons b v ih =>
      intro acc
      rw [List.foldl_cons, ih]
      conv_rhs => rw [pack, List.foldl_cons, ih]
      simp only [List.length_cons, pow_succ]
      ring
  rw [pack, List.foldl_append, shift]
  rfl

theorem pack_cons (b : Bool) (v : Vec) : pack (b :: v) = b.toNat * 2 ^ v.length + pack v := by
  have h := pack_append [b] v
  simpa [pack] using h

/-- `pack_L(v) < 2^L` (R11). -/
theorem pack_lt (v : Vec) : pack v < 2 ^ v.length := by
  induction v with
  | nil => simp
  | cons b v ih =>
    rw [pack_cons, List.length_cons, pow_succ]
    cases b <;> simp <;> omega

/-- One more element at the left of `vec` is the next higher bit. -/
theorem vec_succ (L x : Nat) : vec (L + 1) x = x.testBit L :: vec L x := by
  simp only [vec, List.range_succ_eq_map, List.map_cons, List.map_map]
  refine congr (congrArg List.cons (by simp)) (List.map_congr_left fun j hj => ?_)
  simp only [Function.comp, List.mem_range] at *
  congr 1
  omega

/-- `pack_L(vec_L(x)) = x mod 2^L` (R11). -/
theorem pack_vec (L x : Nat) : pack (vec L x) = x % 2 ^ L := by
  induction L with
  | zero => simp [vec, Nat.mod_one]
  | succ L ih =>
    have hb : (x.testBit L).toNat = x / 2 ^ L % 2 := by
      rw [Nat.testBit_eq_decide_div_mod_eq]
      rcases Nat.mod_two_eq_zero_or_one (x / 2 ^ L) with h | h <;> simp [h]
    rw [vec_succ, pack_cons, ih, hb, length_vec, pow_succ, Nat.mod_mul, Nat.mul_comm, Nat.add_comm]

/-- Stray bits are ignored (R12). -/
theorem vec_mod (L x : Nat) : vec L (x % 2 ^ L) = vec L x := by
  refine List.map_congr_left fun j hj => ?_
  have h : L - 1 - j < L := by simp only [List.mem_range] at hj; omega
  simp [Nat.testBit_mod_two_pow, h]

/-- `vec_L(pack_L(v)) = v` (R11). -/
theorem vec_pack (v : Vec) : vec v.length (pack v) = v := by
  induction v with
  | nil => rfl
  | cons b v ih =>
    have hp := pack_lt v
    rw [List.length_cons, vec_succ, ← vec_mod v.length, pack_cons]
    have h1 : (b.toNat * 2 ^ v.length + pack v) % 2 ^ v.length = pack v := by
      rw [Nat.add_comm, Nat.add_mul_mod_self_right, Nat.mod_eq_of_lt hp]
    have h2 : (b.toNat * 2 ^ v.length + pack v).testBit v.length = b := by
      rw [Nat.testBit_eq_decide_div_mod_eq, Nat.add_comm,
        Nat.add_mul_div_right _ _ (Nat.two_pow_pos _), Nat.div_eq_of_lt hp]
      cases b <;> simp
    rw [h1, h2, ih]

@[simp] theorem length_flipAt (v : Vec) (i : Nat) : (flipAt v i).length = v.length := by simp [flipAt]

/-- Flipping twice undoes the flip. -/
theorem flipAt_flipAt (v : Vec) (i : Nat) : flipAt (flipAt v i) i = v := by
  apply List.ext_getElem?
  intro j
  simp only [flipAt, List.getElem?_modify]
  split
  · cases v[j]? <;> simp
  · simp

@[simp] theorem length_syn (H : List Vec) (v : Vec) : (syn H v).length = H.length := by simp [syn]

/-- A packed syndrome is a key of the table: `syn_packed(H, v) < 2^r` (R15). -/
theorem synPacked_lt (H : List Vec) (v : Vec) : synPacked H v < 2 ^ H.length := by
  simpa [synPacked] using pack_lt (syn H v)

theorem wt_le_length (v : Vec) : wt v ≤ v.length := List.count_le_length

@[simp] theorem State.length_matG (s : State) : s.matG.length = s.kVal := by simp [State.matG]

@[simp] theorem State.length_matH (s : State) : s.matH.length = s.rVal := by simp [State.matH]

/-- The elements of the rows of G as a command reads them (R13, R36). -/
theorem State.entry_matG (s : State) {i j : Nat} (hi : i < s.kVal) (hj : j < s.nVal) :
    entry s.matG i j = (s.gWord i).toNat.testBit (s.nVal - 1 - j) := by
  have h : s.matG.getD i [] = vec s.nVal (s.gWord i).toNat := by
    simp [State.matG, List.getD_eq_getElem?_getD, hi]
  rw [entry, h, getD_vec _ hj]

/-- The elements of the rows of H as a command reads them (R13, R37). -/
theorem State.entry_matH (s : State) {i j : Nat} (hi : i < s.rVal) (hj : j < s.nVal) :
    entry s.matH i j = (s.hWord i).toNat.testBit (s.nVal - 1 - j) := by
  have h : s.matH.getD i [] = vec s.nVal (s.hWord i).toNat := by
    simp [State.matH, List.getD_eq_getElem?_getD, hi]
  rw [entry, h, getD_vec _ hj]

/-- What the dimension check says (R178). -/
theorem State.dimsOk_iff (s : State) : s.dimsOk = true ↔ 0 < s.kVal ∧ s.kVal ≤ s.nVal ∧ s.nVal ≤ s.nMax := by
  simp [State.dimsOk, and_assoc]

/-- A legal code length fits one word. -/
theorem State.nVal_le (s : State) (h : s.dimsOk = true) : s.nVal ≤ 32 := by
  have h1 := s.dimsOk_iff.1 h
  have h2 : s.nMax ≤ 32 := s.lastRow.isLt
  omega

end Sys2Proof.Machine
end

