-- ==== Sys2Proof/Laws/Commands.lean ====
section
/-! SUPPORT. What each command body can do: it raises (R181), or it writes its results and completes (R88). One lemma per
command gives the exact next state under the checks' outcome; the proofs cite these and never unfold a meaning. -/

namespace Sys2Proof.Machine

variable (s : State)

/-- GEN_G after its check (R101). -/
theorem execGenG_ok (h : s.dimsOk = true) :
    execGenG s = .next ({ s.takeRnd (s.kVal * s.rVal) with
      gmem := s.gmem.writeRows 0 ((List.range s.kVal).map fun i => packWord (s.generatorRow i))
      gvalid := true }.complete) := by
  simp [execGenG, firstRaise_cons, h]

theorem execGenG_dim (h : s.dimsOk = false) : execGenG s = .next (s.raise (.validation .dim)) := by
  simp [execGenG, firstRaise_cons, h]

/-- DERIVE_H after its checks, when the left block is the identity (R111). -/
theorem execDeriveH_ok (h : s.dimsOk = true) (hg : s.gvalid = true) (hi : identityMismatch s.matG s.kVal = none) :
    execDeriveH s = .next ({ s.countDraw with
      hmem := s.hmem.writeRows 0 ((List.range s.rVal).map fun j => packWord (parityRow s.matG s.kVal s.rVal j))
      hvalid := true }.invalidateTable.complete) := by
  simp [execDeriveH, firstRaise_cons, h, hg, hi]

/-- DERIVE_H on a left block that is not the identity (R112). -/
theorem execDeriveH_mismatch (h : s.dimsOk = true) (hg : s.gvalid = true) {p : Nat × Nat}
    (hi : identityMismatch s.matG s.kVal = some p) :
    execDeriveH s = .next (s.countDraw.raise (.configuration p.1 p.2)) := by
  simp [execDeriveH, firstRaise_cons, h, hg, hi]

theorem execDeriveH_dim (h : s.dimsOk = false) : execDeriveH s = .next (s.raise (.validation .dim)) := by
  simp [execDeriveH, firstRaise_cons, h]

theorem execDeriveH_missing (h : s.dimsOk = true) (hg : s.gvalid = false) :
    execDeriveH s = .next (s.raise (.validation .missing)) := by
  simp [execDeriveH, firstRaise_cons, h, hg]

/-- BUILD_TABLE after its checks (R121). -/
theorem execBuildTable_ok (h : s.dimsOk = true) (hh : s.hvalid = true) :
    execBuildTable s = .next ({ s.countDraw.invalidateTable with
      tmem := buildWalk s.nVal s.matH (2 ^ s.rVal) (visitOrder s.nVal) [] 0 }.complete) := by
  simp [execBuildTable, firstRaise_cons, h, hh]

theorem execBuildTable_dim (h : s.dimsOk = false) : execBuildTable s = .next (s.raise (.validation .dim)) := by
  simp [execBuildTable, firstRaise_cons, h]

theorem execBuildTable_missing (h : s.dimsOk = true) (hh : s.hvalid = false) :
    execBuildTable s = .next (s.raise (.validation .missing)) := by
  simp [execBuildTable, firstRaise_cons, h, hh]

/-- DECODE when no lookup misses (R136). -/
theorem execDecode_ok (h : s.dimsOk = true) (hh : s.hvalid = true) (hl : s.lenA = s.n) {c : Vec × BitVec 6}
    (hs : decodeSearch s.nVal s.matH s.tmem (vec s.nVal s.va.toNat) = .ok c) :
    execDecode s = .next ({ s.countDraw with vr := packWord c.1, lenR := s.n, res := c.2 }.complete) := by
  simp [execDecode, firstRaise_cons, h, hh, hl, hs]

/-- DECODE at its first lookup miss (R139). -/
theorem execDecode_miss (h : s.dimsOk = true) (hh : s.hvalid = true) (hl : s.lenA = s.n) {a : Nat}
    (hs : decodeSearch s.nVal s.matH s.tmem (vec s.nVal s.va.toNat) = .error a) :
    execDecode s = .next (s.countDraw.raise (.internalInvariant a)) := by
  simp [execDecode, firstRaise_cons, h, hh, hl, hs]

theorem execDecode_dim (h : s.dimsOk = false) : execDecode s = .next (s.raise (.validation .dim)) := by
  simp [execDecode, firstRaise_cons, h]

theorem execDecode_missing (h : s.dimsOk = true) (hh : s.hvalid = false) :
    execDecode s = .next (s.raise (.validation .missing)) := by
  simp [execDecode, firstRaise_cons, h, hh]

theorem execDecode_len (h : s.dimsOk = true) (hh : s.hvalid = true) (hl : s.lenA ≠ s.n) :
    execDecode s = .next (s.raise (.validation .len)) := by
  simp [execDecode, firstRaise_cons, h, hh, hl]

/-- GET_PRIMARY after its checks (R143). -/
theorem execGetPrimary_ok (h : s.dimsOk = true) (hl : s.lenA = s.n) :
    execGetPrimary s = .next ({ s with
      vr := packWord ((vec s.nVal s.va.toNat).take s.kVal), lenR := s.k }.complete) := by
  simp [execGetPrimary, firstRaise_cons, h, hl]

theorem execGetPrimary_dim (h : s.dimsOk = false) : execGetPrimary s = .next (s.raise (.validation .dim)) := by
  simp [execGetPrimary, firstRaise_cons, h]

theorem execGetPrimary_len (h : s.dimsOk = true) (hl : s.lenA ≠ s.n) :
    execGetPrimary s = .next (s.raise (.validation .len)) := by
  simp [execGetPrimary, firstRaise_cons, h, hl]

/-- CNT_ERR after its check (R156). -/
theorem execCntErr_ok (h : s.lengthsTooLong = false) :
    execCntErr s = .next ({ s.noteFallback with res := BitVec.ofNat 6 s.mismatchList.length }.complete) := by
  simp [execCntErr, firstRaise_cons, h]

theorem execCntErr_len (h : s.lengthsTooLong = true) : execCntErr s = .next (s.raise (.validation .len)) := by
  simp [execCntErr, firstRaise_cons, h]

/-- ERR_POS after its check (R158). -/
theorem execErrPos_ok (h : s.lengthsTooLong = false) :
    execErrPos s = .next ({ s.noteFallback with
      pcnt := BitVec.ofNat 6 s.mismatchList.length
      plist := positionList s.mismatchList }.complete) := by
  simp [execErrPos, firstRaise_cons, h]

theorem execErrPos_len (h : s.lengthsTooLong = true) : execErrPos s = .next (s.raise (.validation .len)) := by
  simp [execErrPos, firstRaise_cons, h]

end Sys2Proof.Machine
end

