-- ==== Sys2Proof/Laws/PerInstr.lean ====
section
/-! SUPPORT. The statements made per command: its word has `rsv = 0`, its opcode's fields are well formed, and the word
decodes to it (R80, R82). -/

namespace Sys2Proof.Laws.Encoding

/-- The command's word is well formed and decodes to the command. -/
def Statement (i : Instr) : Prop :=
  i.wellFormed = true ∧ (fieldsOf (encode i)).wellFormed = true ∧ (fieldsOf (encode i)).op = opcodeOf i ∧
    decode (encode i) = .ok i

theorem genG : Statement .genG := by unfold Statement; decide
theorem deriveH : Statement .deriveH := by unfold Statement; decide
theorem buildTable : Statement .buildTable := by unfold Statement; decide
theorem decode : Statement .decode := by unfold Statement; decide
theorem getPrimary : Statement .getPrimary := by unfold Statement; decide
theorem cntErr : Statement .cntErr := by unfold Statement; decide
theorem errPos : Statement .errPos := by unfold Statement; decide

end Sys2Proof.Laws.Encoding
end

