-- ==== Sys2Proof/Laws/Step.lean ====
section
/-! SUPPORT. What one step can do, said once: the five cases of the next input. -/

namespace Sys2Proof.Machine

variable {s t : State}

theorem step_nil (h : s.inputs = []) : step s = s.sequencerTurn := by simp [step, h]

theorem step_quiet {rest : List Input} (h : s.inputs = .quiet :: rest) :
    step s = { s with inputs := rest }.sequencerTurn := by simp [step, h]

theorem step_read {a : BitVec 7} {rest : List Input} (h : s.inputs = .read a :: rest) :
    step s = .next ({ s with inputs := rest }.hostRead a) := by simp [step, h]

theorem step_write {a : BitVec 7} {v : Word} {rest : List Input} (h : s.inputs = .write a v :: rest) :
    step s = .next ({ s with inputs := rest }.hostWrite a v) := by simp [step, h]

theorem step_rst {level : Bool} {rest : List Input} (h : s.inputs = .rst level :: rest) :
    step s = .next ({ s with inputs := rest }.rst level) := by simp [step, h]

theorem sequencerTurn_held (h : s.rstHeld = true) : s.sequencerTurn = .next s := by simp [State.sequencerTurn, h]

theorem sequencerTurn_idle (h : s.seq = .idle) : s.sequencerTurn = .next s := by simp [State.sequencerTurn, h]

theorem sequencerTurn_running {w : Word} (h : s.seq = .running w) (hr : s.rstHeld = false) :
    s.sequencerTurn = runWord w s := by simp [State.sequencerTurn, h, hr]

theorem runWord_legal {w : Word} {i : Instr} (h : decode w = .ok i) : runWord w s = exec i s := by simp [runWord, h]

theorem runWord_illegal {w : Word} {e : DecodeError} (h : decode w = .error e) :
    runWord w s = .next (s.raise (.illegalCommand w)) := by simp [runWord, h]

/-- Everything a sequencer's turn can do: nothing, a command body, or the raise of an illegal word. -/
theorem sequencerTurn_cases (h : s.sequencerTurn = .next t) :
    ((s.rstHeld = true ∨ s.seq = .idle) ∧ t = s) ∨
    (∃ w i, s.rstHeld = false ∧ s.seq = .running w ∧ decode w = .ok i ∧ exec i s = .next t) ∨
    (∃ w e, s.rstHeld = false ∧ s.seq = .running w ∧ decode w = .error e ∧ t = s.raise (.illegalCommand w)) := by
  cases hr : s.rstHeld with
  | true =>
    rw [sequencerTurn_held hr] at h
    exact .inl ⟨.inl rfl, by injection h with h; exact h.symm⟩
  | false =>
    cases hs : s.seq with
    | idle =>
      rw [sequencerTurn_idle hs] at h
      exact .inl ⟨.inr rfl, by injection h with h; exact h.symm⟩
    | running w =>
      rw [sequencerTurn_running hs hr] at h
      cases hd : decode w with
      | ok i => exact .inr (.inl ⟨w, i, rfl, rfl, hd, by rwa [runWord_legal hd] at h⟩)
      | error e =>
        rw [runWord_illegal hd] at h
        exact .inr (.inr ⟨w, e, rfl, rfl, hd, by injection h with h; exact h.symm⟩)

/-- Everything a step can do. -/
theorem step_cases (h : step s = .next t) :
    (∃ s', (s' = s ∧ s.inputs = [] ∨ ∃ rest, s.inputs = .quiet :: rest ∧ s' = { s with inputs := rest }) ∧
      s'.sequencerTurn = .next t) ∨
    (∃ a rest, s.inputs = .read a :: rest ∧ t = { s with inputs := rest }.hostRead a) ∨
    (∃ a v rest, s.inputs = .write a v :: rest ∧ t = { s with inputs := rest }.hostWrite a v) ∨
    (∃ level rest, s.inputs = .rst level :: rest ∧ t = { s with inputs := rest }.rst level) := by
  cases hi : s.inputs with
  | nil => exact .inl ⟨s, .inl ⟨rfl, rfl⟩, by rwa [step_nil hi] at h⟩
  | cons x rest =>
    cases x with
    | quiet => exact .inl ⟨_, .inr ⟨rest, rfl, rfl⟩, by rwa [step_quiet hi] at h⟩
    | read a =>
      rw [step_read hi] at h
      exact .inr (.inl ⟨a, rest, rfl, by injection h with h; exact h.symm⟩)
    | write a v =>
      rw [step_write hi] at h
      exact .inr (.inr (.inl ⟨a, v, rest, rfl, by injection h with h; exact h.symm⟩))
    | rst level =>
      rw [step_rst hi] at h
      exact .inr (.inr (.inr ⟨level, rest, rfl, by injection h with h; exact h.symm⟩))

end Sys2Proof.Machine
end

