-- ==== Sys2Proof/Tests/Slice0.lean ====
section
/-! SUPPORT. The model's own tests. Expected values are those of spec/95_test_vectors.md (its ids stand in the comments) or
of the worked examples of the command rules. The second half holds one witness per statement with hypotheses: a concrete
state and operands that meet them all. -/

namespace Sys2Proof.Tests
open Sys2Proof.Machine Sys2Proof.Claims

/-- The next state of an outcome, if it is one. -/
def nextOf (o : Host.Outcome State Fault Refusal) : Option State :=
  match o with
  | .next t => some t
  | .fault _ => none
  | .refused _ => none

/-! ### Well-formedness: a term for each check, which the check refuses -/

theorem test_wf_accepts_decode : CommandFields.wellFormed { rsv := 0, op := 4 } = true := by decide
theorem test_wf_refuses_reserved : CommandFields.wellFormed { rsv := 1, op := 4 } = false := by decide
theorem test_wf_refuses_op_zero : CommandFields.wellFormed { rsv := 0, op := 0 } = false := by decide
theorem test_wf_refuses_op_eight : CommandFields.wellFormed { rsv := 0, op := 8 } = false := by decide

/-! ### Decoding, words written out from R80 and R82 -/

theorem test_decode_genG : decode 0b00000000000000000000000000000001 = .ok .genG := by decide
theorem test_decode_deriveH : decode 0b00000000000000000000000000000010 = .ok .deriveH := by decide
theorem test_decode_buildTable : decode 0b00000000000000000000000000000011 = .ok .buildTable := by decide
theorem test_decode_decode : decode 0b00000000000000000000000000000100 = .ok .decode := by decide
theorem test_decode_getPrimary : decode 0b00000000000000000000000000000101 = .ok .getPrimary := by decide
theorem test_decode_cntErr : decode 0b00000000000000000000000000000110 = .ok .cntErr := by decide
theorem test_decode_errPos : decode 0b00000000000000000000000000000111 = .ok .errPos := by decide
/-- V-ENC-3. -/
theorem test_decode_reserved : decode 0x00000014 = .error .reservedBitsSet := by decide
/-- V-ENC-7. -/
theorem test_decode_unused : decode 0x0000000F = .error .unusedOpcode := by decide
/-- The first step after reset runs the fetched word: V-DEC-13. -/
theorem test_fetch_decode_after_reset :
    (nextOf (step (State.reset.withFetchWord 32 4))).map (fun t => (t.statusWord, t.errinfo)) = some (0x212, 1) := by
  decide

/-! ### Small states -/

/-- Dimensions only. -/
def dims (n k : BitVec 6) : State := { State.reset with n := n, k := k, lenA := n }

/-- Rows written from row 0 on. -/
def rows (ws : List Word) : Memory Word := ws.zipIdx.map fun p => (p.2, p.1)

/-- Code A of 95_test_vectors.md with G, H and the table of V-TAB-1. -/
def codeA : State :=
  { dims 7 4 with
    gvalid := true, hvalid := true, va := 0x4A, gmem := rows [0x46, 0x25, 0x13, 0x0F]
    hmem := rows [0x6C, 0x5A, 0x39], tmem := [(0, 0), (1, 1), (2, 1), (3, 1), (4, 1), (5, 1), (6, 1), (7, 1)] }

/-- Code B with H and the table of V-TAB-2. -/
def codeB : State :=
  { dims 5 2 with
    hvalid := true, va := 0x07, hmem := rows [0x14, 0x1A, 0x09]
    tmem := [(0, 0), (1, 1), (2, 1), (3, 1), (4, 1), (5, 2), (6, 1), (7, 2)] }

/-- Operands of the distance engine. -/
def pair (a : Word) (la : BitVec 6) (b : Word) (lb : BitVec 6) : State :=
  { State.reset with va := a, lenA := la, vb := b, lenB := lb }

/-! ### One step of each command -/

/-- V-GEN-3: row-major draws. -/
theorem test_genG_rows :
    (nextOf (exec .genG { dims 7 4 with
        rnd := [true, true, false, true, false, true, false, true, true, true, true, true] })).map
      (fun t => (t.gmem, t.gvalid, t.cursor)) = some (rows [0x46, 0x25, 0x13, 0x0F], true, 12) := by decide

/-- V-GEN-9: `N = 17` above `N_MAX = 16`. -/
theorem test_genG_ceiling :
    (nextOf (exec .genG (dims 17 4))).map (fun t => (t.statusWord, t.errinfo, t.cursor)) = some (0x212, 1, 0) := by decide

/-- V-DER-1. -/
theorem test_deriveH_rows :
    (nextOf (exec .deriveH codeA)).map (fun t => (t.hmem, t.hvalid, t.tmem)) =
      some (rows [0x6C, 0x5A, 0x39], true, []) := by decide

/-- V-DER-7: row 1, column 1. -/
theorem test_deriveH_mismatch :
    (nextOf (exec .deriveH { codeA with gmem := rows [0x46, 0x05, 0x13, 0x0F] })).map
      (fun t => (t.statusWord, t.errinfo, t.tmem.length)) = some (0x222, 0x101, 8) := by decide

/-- V-TAB-2: two entries of weight 2. -/
theorem test_buildTable_codeB :
    (nextOf (exec .buildTable { codeB with tmem := [(9, 5)] })).map (fun t => t.tmem) = some codeB.tmem := by decide

/-- V-TAB-5: an H of rank 1. -/
theorem test_buildTable_not_onto :
    (nextOf (exec .buildTable { dims 4 2 with hvalid := true, hmem := rows [0xC, 0xC] })).map
      (fun t => (t.tmem, t.statusWord)) = some ([(0, 0), (3, 1)], 0x002) := by decide

/-- V-DEC-4b: a kept flip, three undone, a stop at the last position. -/
theorem test_decode_two_flips :
    (nextOf (exec .decode codeB)).map (fun t => (t.vr, t.lenR, t.res, t.va)) = some (0x16, 5, 0, 0x07) := by decide

/-- V-DEC-5: the scan runs out with weight 1. -/
theorem test_decode_runs_out :
    (nextOf (exec .decode { codeB with va := 0x05, tmem := codeB.tmem.write 3 2 })).map
      (fun t => (t.vr, t.res, t.statusWord)) = some (0x0D, 1, 0x002) := by decide

/-- V-PRI-2: stray bits ignored. -/
theorem test_getPrimary_cut :
    (nextOf (exec .getPrimary { dims 7 4 with va := 0xFFFFFFDA })).map (fun t => (t.vr, t.lenR)) = some (0xB, 4) := by
  decide

/-- V-HAM-5. -/
theorem test_cntErr_stray_bits :
    (nextOf (exec .cntErr (pair 0xF0 4 0x0F 4))).map (fun t => (t.res, t.statusWord)) = some (4, 0x002) := by decide

/-- V-HAM-2: the soft fallback. -/
theorem test_cntErr_fallback :
    (nextOf (exec .cntErr (pair 0x2 2 0x5 3))).map (fun t => (t.res, t.statusWord)) = some (0, 0x102) := by decide

/-- V-HAM-7: first and last index of a full word. -/
theorem test_errPos_ends :
    (nextOf (exec .errPos (pair 0x80000001 32 0 32))).map
      (fun t => (t.pcnt, t.plist.get 0, t.plist.get 1, t.plist.get 2)) = some (2, 0, 31, 0) := by decide

/-- V-HAM-10: the range check comes before the mismatch test. -/
theorem test_errPos_too_long :
    (nextOf (exec .errPos (pair 0x5 32 0x5 33))).map (fun t => (t.statusWord, t.errinfo)) = some (0x212, 3) := by decide

/-! ### The register interface and reset -/

/-- V-REG-12. -/
theorem test_taddr_mask : ((State.reset.hostWrite 0x11 0xFFFFFFFF).hostRead 0x11).rdata = 0x00007FFF := by decide

/-- V-REG-5: row 16 is not implemented. -/
theorem test_unimplemented_row : ((State.reset.hostWrite 0x30 1).hostRead 0x30).rdata = 0 := by decide

/-- V-REG-10. -/
theorem test_tdata_window :
    (((State.reset.hostWrite 0x11 3).hostWrite 0x12 0x8000003F).hostRead 0x12).rdata = 0x8000003F := by decide

/-- V-REG-7. -/
theorem test_write_n_drops : (let t := codeA.hostWrite 0x06 7; (t.gvalid, t.hvalid, t.tmem, t.gmem)) =
    (false, false, [], codeA.gmem) := by decide

/-- V-REG-17: a write while busy is dropped, `STATUS` reads 1. -/
theorem test_busy_access :
    (((State.reset.start 4).hostWrite 0x09 1).hostRead 0x03).rdata = 0x001 ∧ ((State.reset.start 4).hostWrite 0x09 1).va = 0 := by
  decide

/-- V-ENC-4: an illegal word raises at once. -/
theorem test_illegal_write : (let t := State.reset.hostWrite 0x02 0x80000001; (t.statusWord, t.errinfo)) =
    (0x242, 0x80000001) := by decide

/-- V-RST-1: the register values of R201, with `N_MAX` kept. -/
theorem test_rst_values : (let t := { codeA with ie := true, lastRow := 31 }.rst true; (t.statusWord, t.n, t.tmem, t.irq, t.lastRow)) =
    (0, 0, [], false, 31) := by decide

/-- R200: while `rst` is asserted a write of `VA` and of a command word are without effect; released, the block takes
them again. -/
theorem test_rst_held :
    (let t := ((codeA.rst true).hostWrite 0x09 5).hostWrite 0x02 6; (t.va, t.seq, t.rstHeld)) = (0, .idle, true) ∧
    (((codeA.rst true).rst false).hostWrite 0x09 5).va = 5 := by decide

/-- The product of S1: `m = [1,0,1,1]` encodes to 0x5A. -/
theorem test_encode_codeA : (encodeMessage 7 [true, false, true, true] codeA.matG).map pack = some 0x5A := by decide

/-! ### Witnesses: every statement with hypotheses has a state and operands that meet them together -/

/-- The host's write is next, on an idle block. -/
def writes (s : State) (a : BitVec 7) (v : Word) : State := { s with inputs := [.write a v] }

/-- The host's read is next. -/
def reads (s : State) (a : BitVec 7) : State := { s with inputs := [.read a] }

theorem codeA_leftIdentity : LeftIdentity codeA := by
  have h : ∀ i j : Fin 4, entry codeA.matG i j = decide (i.val = j.val) := by decide
  exact fun i j hi hj => h ⟨i, hi⟩ ⟨j, hj⟩

theorem codeA_hWritten : HWritten codeA := by
  have h : ∀ i : Fin 3, (codeA.hmem.read i.val).isSome := by decide
  exact fun i hi => h ⟨i, hi⟩

theorem codeB_hWritten : HWritten codeB := by
  have h : ∀ i : Fin 3, (codeB.hmem.read i.val).isSome := by decide
  exact fun i hi => h ⟨i, hi⟩

theorem codeB_lookupsHit : LookupsHit codeB 5 := by
  have h : ∀ j : Fin 5, (passAt codeB j).2 ≠ 0 →
      (codeB.tmem.read (synPacked codeB.matH (flipAt (passAt codeB j).1 j))).isSome := by decide
  exact ⟨by decide, fun j hj => h ⟨j, hj⟩⟩

/-- Code B without the entry 2: position 0 is kept, position 1 misses. -/
def codeBmiss : State := { codeB with tmem := codeB.tmem.erase 2 }

theorem codeBmiss_lookupsHit : LookupsHit codeBmiss 1 := by
  have h : ∀ j : Fin 1, (passAt codeBmiss j).2 ≠ 0 →
      (codeBmiss.tmem.read (synPacked codeBmiss.matH (flipAt (passAt codeBmiss j).1 j))).isSome := by decide
  exact ⟨by decide, fun j hj => h ⟨j, hj⟩⟩

/-- `N = K = N_MAX = 16`: the boundary of the dimensions, and of every range that is empty at `k = n`. -/
def square : State := { dims 16 16 with gvalid := true, hvalid := true, tmem := [(0, 0)] }

/-- The repetition code of length 2 with its exact table, and `rv = 01`. -/
def codeR : State := { dims 2 1 with hvalid := true, va := 1, hmem := [(0, 3)], tmem := [(0, 0), (1, 1)] }

/-- A property of all vectors of length 2 is one of four vectors. -/
theorem forall_length_two {P : Vec → Prop} (h : ∀ a b : Bool, P [a, b]) : ∀ v : Vec, v.length = 2 → P v
  | [a, b], _ => h a b

theorem codeR_exactTable : ExactTable codeR := by
  have hw : ∀ w : BitVec 6, ∀ a : Fin 2, codeR.tmem.read a.val = some w ↔ w = BitVec.ofNat 6 a.val := by decide
  have key : ∀ (a : Fin 2) (p q : Bool), synPacked codeR.matH [p, q] = a.val → a.val ≤ wt [p, q] := by decide
  intro a w ha
  have ha2 : a < 2 := ha
  rw [hw w ⟨a, ha2⟩]
  constructor
  · rintro rfl
    refine ⟨[false, decide (a = 1)], rfl, ?_, ?_, ?_⟩
    · interval_cases a <;> decide
    · interval_cases a <;> rfl
    · have h0 : wt [false, decide (a = 1)] = a := by interval_cases a <;> decide
      rw [h0]
      exact forall_length_two fun p q h => key ⟨a, ha2⟩ p q h
  · rintro ⟨v, hv, hs, hwt, hmin⟩
    have h1 : a ≤ wt v := forall_length_two (P := fun v => synPacked codeR.matH v = a → a ≤ wt v)
      (fun p q h => key ⟨a, ha2⟩ p q h) v hv hs
    have h2 : wt v ≤ a := by
      have h := hmin [false, decide (a = 1)] rfl (by interval_cases a <;> decide)
      have h0 : wt [false, decide (a = 1)] = a := by interval_cases a <;> decide
      omega
    apply BitVec.eq_of_toNat_eq
    rw [BitVec.toNat_ofNat, ← hwt]
    show wt v = a % 2 ^ 6
    omega

theorem witness_EncodedCommandDecodesBack : Instr.wellFormed .errPos = true := by decide

theorem witness_StepRunsTheDecodedCommand :
    (codeA.start 4).seq = .running 4 ∧ (codeA.start 4).rstHeld = false ∧ decode 4 = .ok .decode ∧ (codeA.start 4).inputs = [] ∧
      { codeA.start 4 with inputs := [.quiet] }.inputs = .quiet :: [] ∧ decodeTableWord 32 7 = some .errPos := by decide

theorem witness_CommandStartClearsTheStatus :
    HostWrites (writes codeA 0x02 1) 0x02 1 [] ∧ decode 1 = .ok .genG := ⟨by unfold HostWrites; decide, by decide⟩

/-- One witness per clause: a reserved bit, `op = 0`, `op = 8`. -/
theorem witness_IllegalWordRaisesAtOnce :
    (HostWrites (writes codeA 0x02 0x11) 0x02 0x11 [] ∧ (0x11 : Word).toNat / 16 ≠ 0) ∧
    (HostWrites (writes codeA 0x02 0) 0x02 0 [] ∧ (0 : Word).toNat % 16 = 0) ∧
    (HostWrites (writes codeA 0x02 8) 0x02 8 [] ∧ 8 ≤ (8 : Word).toNat % 16) := by
  unfold HostWrites; decide

theorem witness_BusyMachineIgnoresTheHost :
    (writes (codeA.start 4) 0x09 1).seq = .running 4 ∧ (writes (codeA.start 4) 0x09 1).inputs = .write 0x09 1 :: [] ∧
      (reads (codeA.start 4) 0x03).inputs = .read 0x03 :: [] ∧ (reads (codeA.start 4) 0x03).BusyClean := by
  refine ⟨by decide, by decide, by decide, ?_⟩
  rintro w h
  injection h with h
  subst h
  decide

theorem witness_IdleMachineStaysIdle :
    codeA.seq = .idle ∧ codeA.inputs = [] ∧ { codeA with inputs := [.quiet] }.inputs = .quiet :: [] := by decide

theorem witness_RunStartsExecutesAndReadsStatus :
    codeA.seq = .idle ∧ codeA.rstHeld = false ∧ { codeA with inputs := run .decode ++ [] }.inputs = run .decode ++ [] := by decide

/-- The last row, column and address of each range. -/
theorem witness_ErrorCodesAndLayouts : 63 < 64 ∧ 2 ^ 31 - 1 < 2 ^ 31 := by decide

/-- `K = 0`, `K > N`, `N > N_MAX`. -/
theorem witness_BadDimensionsAreReportedFirst :
    ¬ Dims (dims 7 0) ∧ ¬ Dims (dims 5 6) ∧ ¬ Dims (dims 17 4) ∧ Instr.genG ∈ [Instr.genG, .deriveH] := by decide

theorem witness_MissingMatrixIsReportedSecond :
    Dims (dims 16 16) ∧ (dims 16 16).gvalid = false ∧ (dims 16 16).hvalid = false := by decide

theorem witness_WrongLengthIsReportedThird :
    (Dims { codeA with lenA := 6 } ∧ { codeA with lenA := 6 }.lenA ≠ codeA.n ∧ codeA.hvalid = true) ∧
    32 < (pair 5 33 5 32).lenA.toNat ∧ 32 < (pair 5 32 5 33).lenB.toNat := by decide

/-- Row 1, column 1 offends first (V-DER-7); and a G in standard form. -/
theorem witness_IdentityCheckReportsTheFirstOffender :
    (let s := { codeA with gmem := rows [0x46, 0x05, 0x13, 0x0F] }; Dims s ∧ s.gvalid = true ∧ entry s.matG 1 1 ≠ decide (1 = 1) ∧
        ∀ i j : Fin 4, (i.val < 1 ∨ i.val = 1 ∧ j.val < 1) → entry s.matG i j = decide (i.val = j.val)) ∧
    LeftIdentity codeA := ⟨by decide, codeA_leftIdentity⟩

/-- V-DEC-6: a miss at the start; and a miss after a kept flip. -/
theorem witness_LookupMissIsAnInternalError :
    (let s := { codeB with va := 0x10, tmem := codeB.tmem.erase 6 }
     Dims s ∧ s.hvalid = true ∧ s.lenA = s.n ∧ s.tmem.read (synPacked s.matH (vec 5 0x10)) = none) ∧
    (let s := codeBmiss
     (Dims s ∧ s.hvalid = true ∧ s.lenA = s.n ∧ 1 < s.n.toNat) ∧ LookupsHit s 1 ∧ (passAt s 1).2 ≠ 0 ∧
        (passAt s 1).1 ≠ vec 5 0x07 ∧ s.tmem.read (synPacked s.matH (flipAt (passAt s 1).1 1)) = none) :=
  ⟨by decide, by decide, codeBmiss_lookupsHit, by decide, by decide, by decide⟩

theorem witness_GenGWritesIdentityAndDrawnBits : Dims (dims 16 16) ∧ Dims (dims 5 2) ∧ ¬ Dims (dims 0 0) := by decide

theorem witness_OnlyGenGDrawsRandomBits : ∃ t, exec .decode codeA = .next t ∧ Instr.decode ≠ .genG :=
  ⟨_, rfl, by decide⟩

theorem witness_GeneratedMatrixIsAccepted :
    Dims (dims 5 2) ∧ [true, false].length = (dims 5 2).k.toNat ∧ 1 < (dims 5 2).k.toNat := by decide

theorem witness_DeriveHWritesTheTranspose :
    ¬ Dims (dims 7 0) ∧ (Dims (dims 7 4) ∧ (dims 7 4).gvalid = false) ∧
    (let s := { codeA with gmem := rows [0x46, 0x05, 0x13, 0x0F] }; Dims s ∧ s.gvalid = true ∧ entry s.matG 1 1 ≠ decide (1 = 1)) ∧
    (Dims codeA ∧ codeA.gvalid = true ∧ LeftIdentity codeA) :=
  ⟨by decide, by decide, by decide, by decide, by decide, codeA_leftIdentity⟩

theorem witness_CodewordsLieInTheNullSpace :
    Dims codeA ∧ codeA.gvalid = true ∧ LeftIdentity codeA ∧
      (encodeMessage 7 [true, false, true, true] codeA.matG).isSome := ⟨by decide, by decide, codeA_leftIdentity, by decide⟩

theorem witness_DerivedSyndromeMapIsOnto :
    Dims codeA ∧ codeA.gvalid = true ∧ LeftIdentity codeA ∧ 2 < codeA.n.toNat - codeA.k.toNat ∧
      7 < 2 ^ (codeA.n.toNat - codeA.k.toNat) := ⟨by decide, by decide, codeA_leftIdentity, by decide, by decide⟩

theorem witness_SyndromeIsLinear :
    [true, false].length = [true, true].length ∧ 1 < [true, false].length ∧
      ∀ h ∈ [[true, true]], h.length = [true, false].length := by decide

theorem witness_BuildTableWritesOnlyTheTable : Dims codeB ∧ codeB.hvalid = true ∧ Dims square ∧ square.hvalid = true := by
  decide

theorem witness_BuiltTableHoldsLeastWeights :
    Dims codeB ∧ codeB.hvalid = true ∧ 7 < 2 ^ (codeB.n.toNat - codeB.k.toNat) ∧
      (nextOf (exec .buildTable codeB)).bind (fun t => t.tmem.read 7) = some 2 := by decide

theorem codeR_onto : ∀ a, a < 2 ^ (codeR.n.toNat - codeR.k.toNat) →
    ∃ v : Vec, v.length = codeR.n.toNat ∧ synPacked codeR.matH v = a := by
  intro a ha
  have ha2 : a < 2 := ha
  refine ⟨[false, decide (a = 1)], rfl, ?_⟩
  interval_cases a <;> decide

theorem witness_BuiltTableIsComplete : Dims codeR ∧ codeR.hvalid = true ∧
    ∀ a, a < 2 ^ (codeR.n.toNat - codeR.k.toNat) → ∃ v : Vec, v.length = codeR.n.toNat ∧ synPacked codeR.matH v = a :=
  ⟨by decide, by decide, codeR_onto⟩

theorem witness_DecodeAfterBuildNeverMisses : Dims codeB ∧ codeB.hvalid = true ∧ HWritten codeB :=
  ⟨by decide, by decide, codeB_hWritten⟩

theorem witness_DecodeIsOneGreedyPass : Dims codeB ∧ codeB.hvalid = true ∧ codeB.lenA = codeB.n ∧ LookupsHit codeB codeB.n.toNat :=
  ⟨by decide, by decide, by decide, codeB_lookupsHit⟩

theorem witness_DecodeReportsTheRemainingWeight :
    Dims codeB ∧ codeB.hvalid = true ∧ codeB.lenA = codeB.n ∧
      ∃ t, exec .decode codeB = .next t ∧ t.status.err ≠ .internalInvariantError :=
  ⟨by decide, by decide, by decide, _, rfl, by decide⟩

/-- A received codeword (V-DEC-1), and a DECODE that ends with `RES = 0` (V-DEC-4b). -/
theorem witness_DecodeReturnsCodewordsUnchanged :
    (let s := { codeA with va := 0x5A }; Dims s ∧ s.hvalid = true ∧ s.lenA = s.n ∧ synPacked s.matH (vec 7 0x5A) = 0 ∧ s.tmem.read 0 = some 0) ∧
    (Dims codeB ∧ codeB.hvalid = true ∧ codeB.lenA = codeB.n ∧ HWritten codeB ∧
      ∃ t, exec .decode codeB = .next t ∧ t.status.err ≠ .internalInvariantError ∧ t.res = 0) :=
  ⟨by decide, by decide, by decide, by decide, codeB_hWritten, _, rfl, by decide, by decide⟩

theorem witness_ExactTableDecodesByALeader :
    Dims codeR ∧ codeR.hvalid = true ∧ codeR.lenA = codeR.n ∧ ExactTable codeR :=
  ⟨by decide, by decide, by decide, codeR_exactTable⟩

/-- V-DEC-9: an empty table. -/
theorem witness_RepeatedDecodeRaisesAgain :
    let s := { codeA with tmem := [] }
    Dims s ∧ s.hvalid = true ∧ s.lenA = s.n ∧ HWritten s ∧
      Gives (exec .decode s) (raised s .internalInvariantError 3) :=
  ⟨by decide, by decide, by decide, codeA_hWritten, 0, 1, rfl⟩

theorem witness_NoiselessRoundTripReturnsTheMessage :
    Dims codeA ∧ codeA.gvalid = true ∧ LeftIdentity codeA ∧
      (encodeMessage codeA.n.toNat [true, false, true, true] codeA.matG).map pack = some 0x5A :=
  ⟨by decide, by decide, codeA_leftIdentity, by decide⟩

theorem witness_GetPrimaryCutsTheLeadingBits :
    ¬ Dims (dims 7 0) ∧ (Dims { codeA with lenA := 6 } ∧ { codeA with lenA := 6 }.lenA ≠ codeA.n) ∧
      (Dims codeA ∧ codeA.lenA = codeA.n) ∧ (Dims square ∧ square.lenA = square.n) := by decide

/-- Lengths 33, 0 and 32 on equal and unequal operands. -/
theorem witness_CntErrCountsDifferingBits :
    32 < (pair 5 33 5 33).lenA.toNat ∧
    ((pair 2 2 5 3).lenA.toNat ≤ 32 ∧ (pair 2 2 5 3).lenB.toNat ≤ 32 ∧ (pair 2 2 5 3).lenA ≠ (pair 2 2 5 3).lenB) ∧
    ((pair 5 32 0 32).lenA.toNat ≤ 32 ∧ (pair 5 32 0 32).lenA = (pair 5 32 0 32).lenB) ∧
    ((pair 0 0 0 0).lenA.toNat ≤ 32 ∧ (pair 0 0 0 0).lenA = (pair 0 0 0 0).lenB) := by decide

theorem witness_ErrPosListsDifferingIndices :
    32 < (pair 5 32 5 33).lenB.toNat ∧
    ((pair 2 2 5 3).lenA.toNat ≤ 32 ∧ (pair 2 2 5 3).lenB.toNat ≤ 32 ∧ (pair 2 2 5 3).lenA ≠ (pair 2 2 5 3).lenB) ∧
    ((pair 0xFFFFFFFF 32 0 32).lenA.toNat ≤ 32 ∧ (pair 0xFFFFFFFF 32 0 32).lenA = (pair 0xFFFFFFFF 32 0 32).lenB ∧
      ((pair 0xFFFFFFFF 32 0 32).va ^^^ (pair 0xFFFFFFFF 32 0 32).vb).getLsbD (32 - 1 - 31) = true) := by decide

theorem witness_CountAndListAgree : (pair 0xB 4 0xE 4).lenA.toNat ≤ 32 ∧ (pair 0xB 4 0xE 4).lenB.toNat ≤ 32 := by decide

theorem witness_DistanceEngineIgnoresTheCode :
    let s := { codeA with va := 0xB, lenA := 4, vb := 0xE, lenB := 4 }
    let u := pair 0xB 4 0xE 4
    s.va = u.va ∧ s.lenA = u.lenA ∧ s.vb = u.vb ∧ s.lenB = u.lenB ∧ s.status = u.status ∧ s.lenA.toNat ≤ 32 ∧
      s.lenB.toNat ≤ 32 ∧ s ≠ u ∧ State.reset.lenA = 0 ∧ State.reset.lenB = 0 := by decide

theorem witness_WritingDimensionsDropsTheCode :
    HostWrites (writes codeA 0x06 0xFFFFFFFF) 0x06 0xFFFFFFFF [] ∧ HostWrites (writes codeA 0x07 4) 0x07 4 [] := by
  unfold HostWrites; decide

/-- The first and the last implemented row of HMEM. -/
theorem witness_WritingHmemInvalidatesTheTable :
    (HostWrites (writes codeA 0x40 0) 0x40 0 [] ∧ 0x40 ≤ (0x40 : BitVec 7).toNat ∧
      HostWrites (writes codeA 0x4F 0) 0x4F 0 [] ∧ (0x4F : BitVec 7).toNat ≤ 0x40 + codeA.lastRow.val) ∧
    (Dims codeA ∧ codeA.gvalid = true ∧ LeftIdentity codeA ∧ ∃ t, exec .deriveH codeA = .next t) :=
  ⟨by unfold HostWrites; decide, by decide, by decide, codeA_leftIdentity, _, rfl⟩

/-- The first and the last implemented row of GMEM. -/
theorem witness_WritingGmemChangesOnlyThatRow :
    HostWrites (writes codeA 0x20 1) 0x20 1 [] ∧ 0x20 ≤ (0x20 : BitVec 7).toNat ∧
      HostWrites (writes codeA 0x2F 1) 0x2F 1 [] ∧ (0x2F : BitVec 7).toNat ≤ 0x20 + codeA.lastRow.val := by
  unfold HostWrites; decide

/-- A write that sets an entry, one that clears it, and a read. -/
theorem witness_TableWindowReadsAndWritesOneEntry :
    HostWrites (writes codeA 0x11 0xFFFFFFFF) 0x11 0xFFFFFFFF [] ∧
    (HostWrites (writes codeA 0x12 0x8000003F) 0x12 0x8000003F [] ∧ (0x8000003F : Word).getLsbD 31 = true) ∧
    (HostWrites (writes codeA 0x12 0x7FFFFFFF) 0x12 0x7FFFFFFF [] ∧ (0x7FFFFFFF : Word).getLsbD 31 = false) ∧
    ((reads codeA 0x12).seq = .idle ∧ (reads codeA 0x12).inputs = .read 0x12 :: []) ∧
    (codeA.tmem.read codeA.taddr.toNat).isSome ∧ State.reset.tmem.read State.reset.taddr.toNat = none := by
  unfold HostWrites; decide

theorem witness_TcountCountsTheValidEntries : codeA.MemoriesWf := by decide

theorem witness_StatusFieldsAndAcknowledge : HostWrites (writes codeA 0x03 0x202) 0x03 0x202 [] := by
  unfold HostWrites; decide

theorem witness_InterruptFollowsIeAndDone :
    { codeA with ie := true }.ie = true ∧
    (HostWrites (writes codeA 0x03 2) 0x03 2 [] ∧ (2 : Word).getLsbD 1 = true) ∧
    (HostWrites (writes codeA 0x02 7) 0x02 7 [] ∧ decode 7 = .ok .errPos) ∧
    (HostWrites (writes { codeA with ie := true } 0x02 8) 0x02 8 [] ∧ decode 8 = .error .unusedOpcode) ∧
    HostWrites (writes codeA 0x04 0) 0x04 0 [] ∧ { codeA with inputs := [.rst true] }.inputs = .rst true :: [] := by
  unfold HostWrites; decide

/-- GMEM row 16, the reserved addresses at both ends, ID, and PLIST[0], with `N_MAX = 16`. -/
theorem witness_UnwritableAddressesIgnoreWrites :
    (0x20 + codeA.lastRow.val < (0x30 : BitVec 7).toNat ∧ (0x30 : BitVec 7).toNat < 0x40) ∧
    (0x40 + codeA.lastRow.val < (0x5F : BitVec 7).toNat ∧ (0x5F : BitVec 7).toNat < 0x60) ∧
    (0x14 ≤ (0x14 : BitVec 7).toNat ∧ (0x1F : BitVec 7).toNat < 0x20) ∧
    (0x00 : BitVec 7).toNat ∈ [0x00, 0x01, 0x05, 0x0D, 0x0E, 0x0F, 0x10, 0x13] ∧ 0x60 ≤ (0x60 : BitVec 7).toNat ∧
    HostWrites (writes codeA 0x14 1) 0x14 1 [] ∧
    (reads codeA 0x30).seq = .idle ∧ (reads codeA 0x30).inputs = .read 0x30 :: [] := by
  unfold HostWrites; decide

theorem witness_ReadWriteRegistersKeepTheirBits :
    HostWrites (writes codeA 0x09 1) 0x09 1 [] ∧ HostWrites (writes codeA 0x0A 0xFFFFFFFF) 0x0A 0xFFFFFFFF [] ∧
    HostWrites (writes codeA 0x0B 1) 0x0B 1 [] ∧ HostWrites (writes codeA 0x0C 33) 0x0C 33 [] ∧
    HostWrites (writes codeA 0x08 0xFFFFFFFF) 0x08 0xFFFFFFFF [] ∧ HostWrites (writes codeA 0x04 2) 0x04 2 [] := by
  unfold HostWrites; decide

/-- A fixed register, the last list entry, and the written rows of both matrices. -/
theorem witness_ReadsHaveNoSideEffect :
    (reads codeA 0x00).seq = .idle ∧ (reads codeA 0x00).inputs = .read 0x00 :: [] ∧
    (0x7F : BitVec 7).toNat = 0x60 + (31 : Fin 32).val ∧
    ((0x23 : BitVec 7).toNat = 0x20 + (3 : Fin 32).val ∧ (3 : Fin 32) ≤ codeA.lastRow ∧ codeA.gmem.read 3 = some 0x0F) ∧
    ((0x42 : BitVec 7).toNat = 0x40 + (2 : Fin 32).val ∧ (2 : Fin 32) ≤ codeA.lastRow ∧ codeA.hmem.read 2 = some 0x39) := by
  decide

theorem witness_NoCommandWritesItsOperands :
    (∃ t, exec .decode codeA = .next t) ∧ ∃ t, step (reads codeA 0x00) = .next t := ⟨⟨_, rfl⟩, ⟨_, rfl⟩⟩

/-- A table entry that a write to `N` clears. -/
theorem witness_ValidBitsFallOnlyByTheListedCauses :
    ∃ t, step (writes codeA 0x06 7) = .next t ∧ ((writes codeA 0x06 7).tmem.read 3).isSome ∧ t.tmem.read 3 = none :=
  ⟨_, rfl, by decide, by decide⟩

/-- `ERRSTICKY` that the acknowledging write clears. -/
theorem witness_ErrstickyFallsOnlyByHostOrReset :
    let s := writes { codeA with status := { codeA.status with errsticky := true } } 0x03 0x200
    ∃ t, step s = .next t ∧ s.status.errsticky = true ∧ t.status.errsticky = false := ⟨_, rfl, by decide, by decide⟩

/-- `GVALID` set by GEN_G, `HVALID` set by the host. -/
theorem witness_MatrixFlagsRiseOnlyByTheListedCauses :
    (∃ t, step ((dims 3 3).start 1) = .next t ∧ ((dims 3 3).start 1).gvalid = false ∧ t.gvalid = true) ∧
    (∃ t, step (writes (dims 3 3) 0x08 2) = .next t ∧ (writes (dims 3 3) 0x08 2).hvalid = false ∧ t.hvalid = true) :=
  ⟨⟨_, rfl, by decide, by decide⟩, ⟨_, rfl, by decide, by decide⟩⟩

theorem witness_ResetLeavesTheListedValues :
    { codeA with inputs := [.rst true] }.seq = .idle ∧ { codeA with inputs := [.rst true] }.inputs = .rst true :: [] := by
  decide

/-- GEN_G in progress, and another command in progress. -/
theorem witness_ResetAbandonsTheCommand :
    { codeA.start 1 with inputs := [.rst true] }.seq = .running 1 ∧
      { codeA.start 1 with inputs := [.rst true] }.inputs = .rst true :: [] ∧
      { codeA.start 4 with inputs := [.rst true] }.seq = .running 4 ∧ decode 4 ≠ .ok .genG := by decide

/-- `rst` asserted, a host write next: the reset values stand, and the write is not a release. -/
theorem witness_AssertedResetHoldsItsValues :
    let s := (writes State.reset 0x02 1).rst true
    s.rstHeld = true ∧ ResetValues s s.lastRow ∧ (∀ rest, s.inputs ≠ .rst false :: rest) ∧
      { s with inputs := [.rst false] }.inputs = .rst false :: [] ∧ State.reset.rstHeld = false := by
  refine ⟨by decide, ⟨by decide, by decide, by decide, fun a => rfl, fun r => ?_⟩, fun rest h => ?_, by decide, by decide⟩
  · have hg : ∀ i : Fin 32, if i ≤ 15 then (none : Option Word) = none
        else ((writes State.reset 0x02 1).rst true).regValue (.gmem i) = 0 := by decide
    have hh : ∀ i : Fin 32, if i ≤ 15 then (none : Option Word) = none
        else ((writes State.reset 0x02 1).rst true).regValue (.hmem i) = 0 := by decide
    have hp : ∀ i : Fin 32, ((writes State.reset 0x02 1).rst true).regValue (.plist i) = 0 := by decide
    cases r with
    | gmem i => exact hg i
    | hmem i => exact hh i
    | plist i => exact hp i
    | _ => decide
  · injection h with h
    cases h

/-- The invariant holds of a state in the middle of a command. -/
theorem codeA_running_inv : (codeA.start 4).Inv where
  memories := by decide
  taddr := by decide
  busy := by
    rintro w h
    injection h with h
    subst h
    decide
  errinfo := by decide
  fallback := by decide
  result := by decide
  positions := by decide
  held := by decide

theorem witness_EveryStepKeepsTheInvariant : (codeA.start 4).Inv ∧ ∃ t, step (codeA.start 4) = .next t :=
  ⟨codeA_running_inv, _, rfl⟩

theorem witness_TransmitComparesWithLessOrEqual :
    [(1 / 2 : Rat), 1 / 3].length = [true, false].length ∧ (∀ x ∈ [(1 / 2 : Rat), 1 / 3], 0 ≤ x ∧ x < 1) ∧
      (∀ x ∈ [(1 / 2 : Rat), 1 / 3], x ≠ 0) := by
  exact ⟨rfl, by norm_num, by norm_num⟩

end Sys2Proof.Tests
end

section
/-! Host accesses of an idle block (R63, R64): the step they make, and what a write does to each register whose
write has a side effect of its own (R29, R38, R41). -/

namespace Sys2Proof.Machine

variable (s : State) (v : Word)

/-- The six low bits of a word, written as a number. -/
theorem setWidth_six_eq_ofNat_mod : v.setWidth 6 = BitVec.ofNat 6 (v.toNat % 64) := by
  apply BitVec.eq_of_toNat_eq
  simp

theorem State.writeReg_n :
    s.writeReg v .n = { s with n := v.setWidth 6, gvalid := false, hvalid := false, tmem := [] } := rfl

theorem State.writeReg_k :
    s.writeReg v .k = { s with k := v.setWidth 6, gvalid := false, hvalid := false, tmem := [] } := rfl

theorem State.writeReg_taddr :
    s.writeReg v .taddr = { s with taddr := BitVec.ofNat 32 (v.toNat % 2 ^ s.lastRow.val) } := rfl

theorem State.writeReg_tdata_valid (h : v.getLsbD 31 = true) :
    s.writeReg v .tdata = { s with tmem := s.tmem.write s.taddr.toNat (v.setWidth 6) } := by
  rw [State.writeReg, State.writeTdata, if_pos h]

theorem State.writeReg_tdata_invalid (h : v.getLsbD 31 = false) :
    s.writeReg v .tdata = { s with tmem := s.tmem.erase s.taddr.toNat } := by
  rw [State.writeReg, State.writeTdata, if_neg (by rw [h]; decide)]

/-- A write to an implemented HMEM row stores it and empties the table (R37, R38). -/
theorem State.writeReg_hmem {i : Fin 32} (h : i ≤ s.lastRow) :
    s.writeReg v (.hmem i) = { s with hmem := s.hmem.write i.val v, tmem := [] } := by
  simp [State.writeReg, State.implemented, State.invalidateTable, h]

/-- `TDATA` reads a valid entry as bit 31 and the weight (R41). -/
theorem State.tdata_toNat_of_valid {w : BitVec 6} (h : s.tmem.read s.taddr.toNat = some w) :
    (s.regValue .tdata).toNat = 2 ^ 31 + w.toNat := by
  have hw : w.toNat < 2 ^ 31 := by omega
  have hor : 2147483648 ||| w.toNat = 2147483648 + w.toNat := (Nat.two_pow_add_eq_or_of_lt hw 1).symm
  have hmod : w.toNat % 4294967296 = w.toNat := Nat.mod_eq_of_lt (by omega)
  simp [State.regValue, State.tdataWord, h, hmod, hor]

/-- `TDATA` reads an entry that is not valid as 0 (R41). -/
theorem State.tdata_of_not_valid (h : s.tmem.read s.taddr.toNat = none) : s.regValue .tdata = 0 := by
  simp [State.regValue, State.tdataWord, h]

/-- While no command runs, the port answers the register's value (R63). -/
theorem State.portValue_idle {s : State} (h : s.seq = .idle) (r : Reg) : s.portValue r = s.regValue r := by
  simp [State.portValue, State.busy_idle h]

/-- DERIVE_H finds no offender iff the left `k × k` block is the identity (R112). -/
theorem identityMismatch_eq_none {G : List Vec} {k : Nat} :
    identityMismatch G k = none ↔ ∀ i j, i < k → j < k → entry G i j = ident i j := by
  simp only [identityMismatch, blockPositions, List.find?_eq_none, List.mem_flatMap, List.mem_map, List.mem_range,
    bne_iff_ne, not_not]
  constructor
  · intro h i j hi hj
    exact h (i, j) ⟨i, hi, j, hj, rfl⟩
  · rintro h _ ⟨i, hi, j, hj, rfl⟩
    exact h i j hi hj

end Sys2Proof.Machine

namespace Sys2Proof.Claims
open Sys2Proof.Machine

/-- An exact next state is given whatever the port and the draw counter hold. -/
theorem Gives.of_eq_next {o : Host.Outcome State Fault Refusal} {t : State} (h : o = .next t) : Gives o t :=
  ⟨t.rdata, t.draws, h⟩

/-- A host write while no command runs and `rst` is released acts on the register at its address (R64). -/
theorem HostWrites.step_eq {s : State} {a : BitVec 7} {v : Word} {rest : List Input} {r : Reg}
    (h : HostWrites s a v rest) (hr : regAt a = r) : step s = .next ({ s with inputs := rest }.writeReg v r) := by
  obtain ⟨hseq, hrst, hin⟩ := h
  rw [step_write hin, State.hostWrite_idle { s with inputs := rest } a v (State.busy_idle hseq) hrst, hr]

/-- A host read while no command runs puts the register's value on the port (R63, R65). -/
theorem step_read_idle {s : State} {a : BitVec 7} {rest : List Input} {r : Reg} (hseq : s.seq = .idle)
    (hin : s.inputs = .read a :: rest) (hr : regAt a = r) :
    step s = .next { s with
      inputs := rest, rdata := { s with inputs := rest }.regValue r, draws := s.draws + 1 } := by
  rw [step_read hin, State.hostRead_eq, State.portValue_idle (s := { s with inputs := rest }) hseq, hr]

/-- The dimension check passes exactly on legal dimensions (R178). -/
theorem dimsOk_of_dims {s : State} (h : Dims s) : s.dimsOk = true := s.dimsOk_iff.2 h

/-- A host write to an implemented HMEM row (R37, R38). -/
theorem step_write_hmem {s : State} {a : BitVec 7} {v : Word} {rest : List Input} (h : HostWrites s a v rest)
    (hlow : 0x40 ≤ a.toNat) (hrow : a.toNat ≤ 0x40 + s.lastRow.val) :
    step s = .next { s with inputs := rest, hmem := s.hmem.write (a.toNat - 0x40) v, tmem := [] } := by
  have hhigh : a.toNat < 0x60 := by omega
  have hi : (⟨a.toNat - 0x40, by omega⟩ : Fin 32) ≤ s.lastRow := by
    rw [Fin.le_def]
    show a.toNat - 0x40 ≤ s.lastRow.val
    omega
  rw [h.step_eq (regAt_hmem hlow hhigh), State.writeReg_hmem { s with inputs := rest } v hi]

/-- A DERIVE_H that succeeds leaves the table empty (R38, R111). -/
theorem execDeriveH_tmem {s t : State} (hd : Dims s) (hg : s.gvalid = true) (hl : LeftIdentity s)
    (h : exec .deriveH s = .next t) : t.tmem = [] := by
  have hexec : exec .deriveH s = execDeriveH s := rfl
  rw [hexec, execDeriveH_ok s (dimsOk_of_dims hd) hg (identityMismatch_eq_none.2 hl)] at h
  injection h with h
  simp [← h]

end Sys2Proof.Claims
end

section
/-! The obligations about the registers with side effects (R29, R38, R41). -/

open Sys2Proof Sys2Proof.Machine Sys2Proof.Claims

/-- Settles O41: the write stores the low six bits and drops the code in the same step. -/
theorem writingDimensionsDropsTheCode : Obligations.WritingDimensionsDropsTheCode := by
  unfold Obligations.WritingDimensionsDropsTheCode
  intro s v rest
  constructor
  · intro h
    apply Gives.of_eq_next
    rw [h.step_eq regAt_n, State.writeReg_n, setWidth_six_eq_ofNat_mod]
  · intro h
    apply Gives.of_eq_next
    rw [h.step_eq regAt_k, State.writeReg_k, setWidth_six_eq_ofNat_mod]

/-- Settles O42: the host's write of a row and DERIVE_H both empty the table. -/
theorem writingHmemInvalidatesTheTable : Obligations.WritingHmemInvalidatesTheTable := by
  unfold Obligations.WritingHmemInvalidatesTheTable
  constructor
  · intro s a v rest h hlow hrow
    exact ⟨_, step_write_hmem h hlow hrow, rfl, Memory.read_write_same _ _ _,
      fun b hb => Memory.read_write_other _ _ hb⟩
  · intro s t hd hg hl h
    exact execDeriveH_tmem hd hg hl h

/-- Settles O44: the mask of `TADDR`, the two kinds of `TDATA` write by bit 31, and the `TDATA` read. -/
theorem tableWindowReadsAndWritesOneEntry : Obligations.TableWindowReadsAndWritesOneEntry := by
  unfold Obligations.TableWindowReadsAndWritesOneEntry
  refine ⟨?_, ?_, ?_⟩
  · intro s v rest h
    apply Gives.of_eq_next
    rw [h.step_eq regAt_taddr, State.writeReg_taddr]
  · intro s v rest h
    rw [h.step_eq regAt_tdata]
    cases hv : v.getLsbD 31 with
    | true =>
      rw [State.writeReg_tdata_valid _ _ hv, setWidth_six_eq_ofNat_mod]
      refine ⟨_, rfl, rfl, fun _ => ⟨Memory.read_write_same _ _ _, ?_⟩, nofun,
        fun a ha => Memory.read_write_other _ _ ha⟩
      rw [State.tdata_toNat_of_valid _ (Memory.read_write_same _ _ _)]
      simp
    | false =>
      rw [State.writeReg_tdata_invalid _ _ hv]
      exact ⟨_, rfl, rfl, nofun,
        fun _ => ⟨Memory.read_erase_same _ _, State.tdata_of_not_valid _ (Memory.read_erase_same _ _)⟩,
        fun a ha => Memory.read_erase_other _ ha⟩
  · intro s rest hseq hin
    refine ⟨_, step_read_idle hseq hin regAt_tdata, rfl, ?_, ?_⟩
    · intro w hw
      exact State.tdata_toNat_of_valid { s with inputs := rest } hw
    · intro hnone
      exact State.tdata_of_not_valid { s with inputs := rest } hnone

end

section
/-! Host accesses of a block that runs a command (R66): the step they make. -/

namespace Sys2Proof.Machine

/-- A host read puts what the port answers for the register at its address on `reg_rdata` (R63). -/
theorem State.rdata_hostRead (s : State) {a : BitVec 7} {r : Reg} (hr : regAt a = r) :
    (s.hostRead a).rdata = s.portValue r := by rw [State.hostRead_eq, hr]

/-- The port answers `STATUS` with its word whether or not a command runs (R66). -/
theorem State.portValue_status (s : State) : s.portValue .status = s.statusWord := by
  simp [State.portValue, State.regValue]

/-- While a command runs, a clean `STATUS` holds `BUSY` and `ERRSTICKY` alone (R66). -/
theorem State.statusWord_running {s : State} {w : Word} (h : s.seq = .running w) (hc : s.BusyClean) :
    s.statusWord = if s.status.errsticky then 0x201 else 0x001 := by
  obtain ⟨-, hdone, herr, hsoft⟩ := hc w h
  cases hsticky : s.status.errsticky <;>
    simp [State.statusWord, State.busy_running h, hdone, herr, hsoft, hsticky, flagAt, ErrKind.code]

end Sys2Proof.Machine

namespace Sys2Proof.Claims
open Sys2Proof.Machine

/-- A host write while a command runs is dropped (R66). -/
theorem step_write_running {s : State} {w v : Word} {a : BitVec 7} {rest : List Input}
    (hseq : s.seq = .running w) (hin : s.inputs = .write a v :: rest) :
    step s = .next { s with inputs := rest } := by
  rw [step_write hin, State.hostWrite_busy { s with inputs := rest } a v (State.busy_running hseq)]

end Sys2Proof.Claims
end

section
/-! The obligation about host accesses while a command runs (R66). -/

open Sys2Proof Sys2Proof.Machine Sys2Proof.Claims

/-- Settles O7: a busy block drops the write, and a read moves only the port, where `STATUS` keeps its own word. -/
theorem busyMachineIgnoresTheHost : Obligations.BusyMachineIgnoresTheHost := by
  unfold Obligations.BusyMachineIgnoresTheHost
  intro s w rest hseq
  constructor
  · intro a v hin
    exact Gives.of_eq_next (step_write_running hseq hin)
  · intro a hin
    refine ⟨_, step_read hin, rfl, ?_⟩
    rintro rfl hclean
    calc (State.hostRead { s with inputs := rest } 0x03).rdata
        = State.portValue { s with inputs := rest } .status := State.rdata_hostRead _ regAt_status
      _ = s.statusWord := State.portValue_status _
      _ = if s.status.errsticky then 0x201 else 0x001 := State.statusWord_running hseq hclean

end

section
/-! The decoder inverts the encoder, and the illegal words in terms of the two fields (R80, R82 to R84). -/

namespace Sys2Proof

theorem toNat_rsv_fieldsOf (w : Word) : (fieldsOf w).rsv.toNat = w.toNat / 16 := by
  have hlt : w.toNat / 16 < 268435456 := by omega
  simp [fieldsOf, Nat.shiftRight_eq_div_pow, hlt]

theorem toNat_op_fieldsOf (w : Word) : (fieldsOf w).op.toNat = w.toNat % 16 := by
  simp [fieldsOf]

/-- The opcode map lists each command under its own opcode (R82). -/
theorem lookup_opcodeMap_eq_some {op : BitVec 4} {i : Instr} : opcodeMap.lookup op = some i ↔ op = opcodeOf i := by
  cases i <;> revert op <;> decide

/-- The opcode map has no row for opcode 0 and for the opcodes from 8 on (R84). -/
theorem lookup_opcodeMap_eq_none {op : BitVec 4} : opcodeMap.lookup op = none ↔ op.toNat = 0 ∨ 8 ≤ op.toNat := by
  revert op
  decide

/-- A word that decodes to a command has `rsv = 0` and that command's opcode (R80, R82). -/
theorem fields_of_decode_eq_ok {w : Word} {i : Instr} (h : decode w = .ok i) :
    (fieldsOf w).rsv = 0 ∧ (fieldsOf w).op = opcodeOf i := by
  rw [decode_eq] at h
  split at h
  · cases h
  next hrsv =>
    split at h
    next j hop =>
      cases h
      exact ⟨not_not.1 hrsv, lookup_opcodeMap_eq_some.1 hop⟩
    · cases h

/-- A word decodes to a command iff it is the encoding of that command (R83). -/
theorem decode_eq_ok_iff {w : Word} {i : Instr} : decode w = .ok i ↔ w = encode i := by
  constructor
  · intro h
    obtain ⟨hrsv, hop⟩ := fields_of_decode_eq_ok h
    calc w = wordOfFields (fieldsOf w) := (wordOfFields_fieldsOf w).symm
      _ = wordOfFields { rsv := 0, op := opcodeOf i } := by rw [← hrsv, ← hop]
      _ = encode i := rfl
  · rintro rfl
    exact commandOf_eq_some.1 (commandOf_encode i)

/-- A word that is refused has `rsv ≠ 0`, `op = 0` or `op ≥ 8` (R84). -/
theorem fields_of_decode_eq_error {w : Word} {e : DecodeError} (h : decode w = .error e) :
    w.toNat / 16 ≠ 0 ∨ w.toNat % 16 = 0 ∨ 8 ≤ w.toNat % 16 := by
  rw [← toNat_rsv_fieldsOf, ← toNat_op_fieldsOf]
  rw [decode_eq] at h
  split at h
  next hrsv => exact .inl fun h0 => hrsv (BitVec.eq_of_toNat_eq h0)
  next =>
    split at h
    · cases h
    next hop => exact .inr (lookup_opcodeMap_eq_none.1 hop)

end Sys2Proof
end

section
/-! The obligation about the decoder's totality (R83). -/

open Sys2Proof

/-- Settles O3, by what the decoder answers: a command, whose encoding the word then is, or a reason. -/
theorem decodeIsTotalAndExact : Obligations.DecodeIsTotalAndExact := by
  unfold Obligations.DecodeIsTotalAndExact
  intro w
  cases h : decode w with
  | ok i =>
    refine .inl ⟨i, decode_eq_ok_iff.1 h, rfl, fun j hj => ?_⟩
    have hdecode : decode w = .ok j := decode_eq_ok_iff.2 hj
    rw [h] at hdecode
    injection hdecode with hij
    exact hij.symm
  | error e =>
    refine .inr ⟨fun i hi => ?_, fields_of_decode_eq_error h, e, rfl⟩
    rw [decode_eq_ok_iff.2 hi] at h
    cases h

end

section
/-! Rows as numbers: packing a row of digits or a unit row, the exclusive-or sum of `dot`, and systematic encoding (R11,
R14, R165). -/

namespace Sys2Proof.Machine

/-- The unit row `i` is the vector of `2^(L−1−i)` (R11, R13). -/
theorem vec_two_pow {L i : Nat} (hi : i < L) : vec L (2 ^ (L - 1 - i)) = (List.range L).map (ident i) := by
  refine List.map_congr_left fun j hj => ?_
  have hj' : j < L := List.mem_range.1 hj
  have hij : L - 1 - i = L - 1 - j ↔ i = j := by omega
  simp only [Nat.testBit_two_pow, ident, hij]

theorem pack_map_ident {L i : Nat} (hi : i < L) : pack ((List.range L).map (ident i)) = 2 ^ (L - 1 - i) := by
  have hlt : 2 ^ (L - 1 - i) < 2 ^ L := Nat.pow_lt_pow_right (by decide) (by omega)
  rw [← vec_two_pow hi, pack_vec, Nat.mod_eq_of_lt hlt]

/-- A word of at most 32 bits read back as a vector of its length (R11, R12). -/
theorem vec_packWord {v : Vec} (hv : v.length ≤ 32) : vec v.length (packWord v).toNat = v := by
  have hlt : pack v < 2 ^ 32 := (pack_lt v).trans_le (Nat.pow_le_pow_right (by decide) hv)
  rw [packWord, BitVec.toNat_ofNat, Nat.mod_eq_of_lt hlt, vec_pack]

@[simp] theorem dot_nil_left (u : Vec) : dot [] u = false := rfl

@[simp] theorem dot_nil_right (v : Vec) : dot v [] = false := by simp [dot]

theorem dot_cons_cons (a b : Bool) (v u : Vec) : dot (a :: v) (b :: u) = xor (a && b) (dot v u) := by
  have hcomm : xor false (a && b) = xor (a && b) false := Bool.xor_comm _ _
  simp only [dot, List.zipWith_cons_cons, List.foldl_cons]
  rw [hcomm, List.foldl_assoc]

/-- The product with a vector of zeros is 0 (R14). -/
theorem dot_eq_false {u : Vec} (hu : ∀ b ∈ u, b = false) (v : Vec) : dot v u = false := by
  induction v generalizing u with
  | nil => rfl
  | cons a v ih =>
    cases u with
    | nil => simp
    | cons b u =>
      obtain ⟨rfl, hrest⟩ := List.forall_mem_cons.1 hu
      rw [dot_cons_cons, ih hrest]
      simp

/-- The product with the unit vector `j` is element `j` (R14). -/
theorem dot_unit (v : Vec) (j : Nat) :
    dot v ((List.range v.length).map fun i => decide (i = j)) = v.getD j false := by
  induction v generalizing j with
  | nil => simp
  | cons a v ih =>
    rw [List.length_cons, List.range_succ_eq_map, List.map_cons, List.map_map, dot_cons_cons]
    cases j with
    | zero =>
      rw [dot_eq_false (by simp)]
      simp
    | succ j =>
      have htail : ((fun i => decide (i = j + 1)) ∘ Nat.succ) = fun i => decide (i = j) := by
        funext i
        simp
      rw [htail, ih]
      simp

/-- Column `j` of a matrix by its entries. -/
theorem column_eq_map_entry (G : List Vec) (j : Nat) : column G j = (List.range G.length).map fun i => entry G i j := by
  apply List.ext_getElem
  · simp [column]
  · intro i h1 h2
    have hi : i < G.length := by simpa [column] using h1
    simp [column, entry, List.getD_eq_getElem?_getD, hi]

/-- A codeword of a G in standard form begins with its message (R165). -/
theorem take_of_encodeMessage {n : Nat} {m c : Vec} {G : List Vec} (hn : G.length ≤ n)
    (hG : ∀ i j, i < G.length → j < G.length → entry G i j = ident i j) (h : encodeMessage n m G = some c) :
    c.take G.length = m := by
  obtain ⟨hm, hc⟩ : m.length = G.length ∧ ((List.range n).map fun j => dot m (column G j)) = c := by
    simpa [encodeMessage] using h
  have helem : ∀ j, j < m.length → dot m (column G j) = m.getD j false := by
    intro j hj
    have hcol : column G j = (List.range m.length).map fun i => decide (i = j) := by
      rw [column_eq_map_entry, hm]
      exact List.map_congr_left fun i hi => hG i j (List.mem_range.1 hi) (hm ▸ hj)
    rw [hcol, dot_unit]
  subst hc
  apply List.ext_getElem
  · simp [hm, hn]
  · intro j h1 h2
    simp [helem j h2, List.getD_eq_getElem?_getD, h2]

/-- A G in standard form has full rank: two messages with one codeword are equal (R103). -/
theorem encodeMessage_injective {n : Nat} {m m' : Vec} {G : List Vec} (hn : G.length ≤ n)
    (hG : ∀ i j, i < G.length → j < G.length → entry G i j = ident i j) (hm : m.length = G.length)
    (h : encodeMessage n m G = encodeMessage n m' G) : m = m' := by
  obtain ⟨c, hc⟩ : ∃ c, encodeMessage n m G = some c := by simp [encodeMessage, hm]
  calc m = c.take G.length := (take_of_encodeMessage hn hG hc).symm
    _ = m' := take_of_encodeMessage hn hG (h ▸ hc)

end Sys2Proof.Machine

namespace Sys2Proof.Claims
open Sys2Proof.Machine

theorem digits_succ (L : Nat) (b : Nat → Bool) :
    digits (L + 1) b = (b 0).toNat * 2 ^ L + digits L fun j => b (j + 1) := by
  simp [digits, List.range_succ_eq_map, Function.comp_def, Nat.sub_sub, Nat.add_comm 1]

/-- Packing a row given by its elements is reading them as binary digits (R11). -/
theorem pack_map_range (L : Nat) (b : Nat → Bool) : pack ((List.range L).map b) = digits L b := by
  induction L generalizing b with
  | zero => rfl
  | succ L ih =>
    rw [digits_succ, ← ih, List.range_succ_eq_map, List.map_cons, List.map_map, pack_cons]
    simp [Function.comp_def]

end Sys2Proof.Claims
end

section
/-! GEN_G's next state and the matrix in it (R101, R103); what the two ends of a command that uses the dimensions look
like in the statements' terms (R88, R178, R181). -/

namespace Sys2Proof.Machine

variable (s : State)

/-- The state GEN_G leaves when the dimensions are legal (R101); `execGenG_ok` says that it does. -/
def State.generated : State :=
  { s.takeRnd (s.kVal * s.rVal) with
    gmem := s.gmem.writeRows 0 ((List.range s.kVal).map fun i => packWord (s.generatorRow i))
    gvalid := true }.complete

theorem exec_genG_ok (h : s.dimsOk = true) : exec .genG s = .next s.generated := execGenG_ok s h

@[simp] theorem State.length_drawnRow (i : Nat) : (s.drawnRow i).length = s.rVal := by simp [State.drawnRow]

@[simp] theorem State.length_generatorRow (i : Nat) : (s.generatorRow i).length = s.kVal + s.rVal := by
  simp [State.generatorRow]

/-- The left `k` elements of a generated row are the unit row (R101). -/
theorem State.getD_generatorRow {i j : Nat} (hj : j < s.kVal) : (s.generatorRow i).getD j false = ident i j := by
  simp [State.generatorRow, List.getD_eq_getElem?_getD, List.getElem?_append, hj]

theorem State.read_gmem_generated {i : Nat} (hi : i < s.kVal) :
    s.generated.gmem.read i = some (packWord (s.generatorRow i)) := by
  simp [State.generated, Memory.read_writeRows, hi]

theorem State.read_gmem_generated_of_le {a : Nat} (ha : s.kVal ≤ a) :
    s.generated.gmem.read a = s.gmem.read a := by
  simp [State.generated, Memory.read_writeRows, Nat.not_lt.2 ha]

/-- The matrix in the state GEN_G leaves is the one it drew, whatever GMEM held before (R103). -/
theorem State.matG_generated (h : s.dimsOk = true) :
    s.generated.matG = (List.range s.kVal).map s.generatorRow := by
  refine List.map_congr_left fun i hi => ?_
  have hword : s.generated.gWord i = packWord (s.generatorRow i) := by
    simp [State.gWord, State.rowWord, s.read_gmem_generated (List.mem_range.1 hi)]
  have hlen : s.nVal = (s.generatorRow i).length := by
    have hkn := (s.dimsOk_iff.1 h).2.1
    rw [s.length_generatorRow, State.rVal]
    omega
  have hn : (s.generatorRow i).length ≤ 32 := hlen ▸ s.nVal_le h
  calc vec s.nVal (s.generated.gWord i).toNat
      = vec (s.generatorRow i).length (packWord (s.generatorRow i)).toNat := by rw [hword, hlen]
    _ = s.generatorRow i := vec_packWord hn

/-- The generated G is in standard form (R103). -/
theorem State.entry_matG_generated (h : s.dimsOk = true) {i j : Nat} (hi : i < s.kVal) (hj : j < s.kVal) :
    entry s.generated.matG i j = ident i j := by
  have hrow : ((List.range s.kVal).map s.generatorRow).getD i [] = s.generatorRow i := by
    simp [List.getD_eq_getElem?_getD, hi]
  rw [entry, s.matG_generated h, hrow, s.getD_generatorRow hj]

end Sys2Proof.Machine

namespace Sys2Proof.Claims
open Sys2Proof.Machine

/-- The dimension check fails exactly on illegal dimensions (R178). -/
theorem dimsOk_of_not_dims {s : State} (h : ¬ Dims s) : s.dimsOk = false :=
  Bool.eq_false_iff.2 fun hok => h (s.dimsOk_iff.1 hok)

/-- A command that raises gives the raised state (R181). -/
theorem gives_raised {o : Host.Outcome State Fault Refusal} {s : State} {e : CmdError} (h : o = .next (s.raise e)) :
    Gives o (raised s e.kind e.layout) := Gives.of_eq_next h

/-- DERIVE_H completes on a G in standard form (R111, R112). -/
theorem exec_deriveH_ended {s : State} (hd : Dims s) (hg : s.gvalid = true) (hl : LeftIdentity s) :
    ∃ u, exec .deriveH s = .next u ∧ Ended s u :=
  ⟨_, execDeriveH_ok s (dimsOk_of_dims hd) hg (identityMismatch_eq_none.2 hl), rfl, rfl⟩

theorem leftIdentity_generated {s : State} (hd : Dims s) : LeftIdentity s.generated :=
  fun _ _ hi hj => s.entry_matG_generated (dimsOk_of_dims hd) hi hj

/-- A generated row as a number (R101): the unit bit, then the drawn bits. -/
theorem pack_generatorRow {s : State} (hd : Dims s) {i : Nat} (hi : i < s.k.toNat) :
    pack (s.generatorRow i) = 2 ^ (s.n.toNat - 1 - i) +
      digits (s.n.toNat - s.k.toNat) fun j => s.rndBit (i * (s.n.toNat - s.k.toNat) + j) := by
  obtain ⟨-, hkn, -⟩ := hd
  have hexp : s.k.toNat - 1 - i + (s.n.toNat - s.k.toNat) = s.n.toNat - 1 - i := by omega
  calc pack (s.generatorRow i)
      = 2 ^ (s.k.toNat - 1 - i) * 2 ^ s.rVal + pack (s.drawnRow i) := by
        rw [State.generatorRow, pack_append, pack_map_ident (L := s.kVal) hi, State.length_drawnRow]
        rfl
    _ = 2 ^ (s.n.toNat - 1 - i) + digits s.rVal fun j => s.rndBit (i * s.rVal + j) := by
        rw [← pow_add, State.drawnRow, pack_map_range]
        exact congrArg (2 ^ · + _) hexp

end Sys2Proof.Claims
end

section
/-! The obligations about GEN_G (R101, R103). -/

open Sys2Proof Sys2Proof.Machine Sys2Proof.Claims

/-- Settles O18: the dimension check raises; otherwise `State.generated` is the next state, and its rows are read back. -/
theorem genGWritesIdentityAndDrawnBits : Obligations.GenGWritesIdentityAndDrawnBits := by
  unfold Obligations.GenGWritesIdentityAndDrawnBits
  refine ⟨decode_eq_ok_iff.2 (by decide), fun s => ⟨fun hd => ?_, fun hd => ?_⟩⟩
  · exact gives_raised (execGenG_dim s (dimsOk_of_not_dims hd))
  · refine ⟨s.generated, exec_genG_ok s (dimsOk_of_dims hd), ⟨rfl, rfl⟩, rfl, fun i hi => ?_, fun a ha => ?_⟩
    · rw [s.read_gmem_generated hi, packWord, pack_generatorRow hd hi]
    · exact s.read_gmem_generated_of_le ha

/-- Settles O20: the matrix read back is `[I | A]`, so DERIVE_H finds no offender and a codeword begins with its message;
the rows are the drawn ones, which do not depend on GMEM. -/
theorem generatedMatrixIsAccepted : Obligations.GeneratedMatrixIsAccepted := by
  unfold Obligations.GeneratedMatrixIsAccepted
  intro s hd
  have hok := dimsOk_of_dims hd
  have hl : LeftIdentity s.generated := leftIdentity_generated hd
  have hlen : s.generated.matG.length = s.k.toNat := State.length_matG _
  refine ⟨s.generated, exec_genG_ok s hok, hl, exec_deriveH_ended (s := s.generated) hd rfl hl, ?_, ?_⟩
  · intro m m' hm _ hc
    refine encodeMessage_injective (hlen ▸ hd.2.1) (fun i j hi hj => ?_) (hm.trans hlen.symm) hc
    exact hl i j (hlen ▸ hi) (hlen ▸ hj)
  · intro other
    refine ⟨_, exec_genG_ok { s with gmem := other } hok, fun i hi => ?_⟩
    rw [State.read_gmem_generated { s with gmem := other } hi, s.read_gmem_generated hi]
    rfl

end

section
/-! The identity check of DERIVE_H: the scan of the left block is row by row, so what it finds is the first offender (R112),
and `ERRINFO` holds its row and column as a number (R27). -/

namespace Sys2Proof.Machine

/-- In an ordered list, no element that does not come after the one found satisfies the search. -/
theorem eq_false_of_find?_eq_some {α : Type} {R : α → α → Prop} {l : List α} {P : α → Bool} {a b : α}
    (hl : l.Pairwise R) (h : l.find? P = some b) (ha : a ∈ l) (hne : a ≠ b) (hR : ¬ R b a) : P a = false := by
  obtain ⟨-, before, after, rfl, hbefore⟩ := List.find?_eq_some_iff_append.1 h
  rcases List.mem_append.1 ha with ha | ha
  · simpa using hbefore a ha
  · have hafter := (List.pairwise_cons.1 (List.pairwise_append.1 hl).2.1).1
    rcases List.mem_cons.1 ha with ha | ha
    · exact absurd ha hne
    · exact absurd (hafter a ha) hR

/-- The position `(i, j)` comes before `(i', j')` row by row. -/
def RowMajor (p q : Nat × Nat) : Prop := p.1 < q.1 ∨ p.1 = q.1 ∧ p.2 < q.2

/-- `(i, j)` is the first position of the left `k × k` block of G at which it differs from the identity (R112). -/
def FirstOffender (G : List Vec) (k i j : Nat) : Prop :=
  i < k ∧ j < k ∧ entry G i j ≠ ident i j ∧
    ∀ i' j', i' < k → j' < k → RowMajor (i', j') (i, j) → entry G i' j' = ident i' j'

theorem mem_blockPositions {k : Nat} {p : Nat × Nat} : p ∈ blockPositions k ↔ p.1 < k ∧ p.2 < k := by
  obtain ⟨i, j⟩ := p
  simp [blockPositions]

/-- The scan goes row by row (R112). -/
theorem pairwise_blockPositions (k : Nat) : (blockPositions k).Pairwise RowMajor := by
  rw [blockPositions, List.pairwise_flatMap]
  constructor
  · intro i _
    rw [List.pairwise_map]
    exact List.pairwise_lt_range.imp fun h => .inr ⟨rfl, h⟩
  · refine List.pairwise_lt_range.imp fun {i i'} hlt p hp q hq => .inl ?_
    obtain ⟨j, -, rfl⟩ := List.mem_map.1 hp
    obtain ⟨j', -, rfl⟩ := List.mem_map.1 hq
    exact hlt

/-- What the scan finds is the first offender (R112). -/
theorem firstOffender_of_identityMismatch {G : List Vec} {k : Nat} {p : Nat × Nat}
    (h : identityMismatch G k = some p) : FirstOffender G k p.1 p.2 := by
  obtain ⟨hi, hj⟩ := mem_blockPositions.1 (List.mem_of_find?_eq_some h)
  refine ⟨hi, hj, by simpa using List.find?_some h, fun i' j' hi' hj' hlt => ?_⟩
  have hne : (i', j') ≠ p := by
    rintro rfl
    simp [RowMajor] at hlt
  have hafter : ¬ RowMajor p (i', j') := by
    simp only [RowMajor] at hlt ⊢
    omega
  have hmem : (i', j') ∈ blockPositions k := mem_blockPositions.2 ⟨hi', hj'⟩
  simpa using eq_false_of_find?_eq_some (pairwise_blockPositions k) h hmem hne hafter

/-- There is one first offender: of two offenders, the one that comes later is not first. -/
theorem FirstOffender.unique {G : List Vec} {k i j i' j' : Nat} (h : FirstOffender G k i j)
    (h' : FirstOffender G k i' j') : i = i' ∧ j = j' := by
  obtain ⟨hi, hj, hne, hfirst⟩ := h
  obtain ⟨hi', hj', hne', hfirst'⟩ := h'
  have h1 : ¬ RowMajor (i', j') (i, j) := fun hlt => hne' (hfirst i' j' hi' hj' hlt)
  have h2 : ¬ RowMajor (i, j) (i', j') := fun hlt => hne (hfirst' i j hi hj hlt)
  simp only [RowMajor] at h1 h2
  omega

/-- The scan finds the first offender, wherever it stands (R112). -/
theorem FirstOffender.identityMismatch_eq {G : List Vec} {k i j : Nat} (h : FirstOffender G k i j) :
    identityMismatch G k = some (i, j) := by
  cases hscan : identityMismatch G k with
  | none =>
    obtain ⟨hi, hj, hne, -⟩ := h
    exact absurd (identityMismatch_eq_none.1 hscan i j hi hj) hne
  | some p =>
    obtain ⟨hrow, hcol⟩ := (firstOffender_of_identityMismatch hscan).unique h
    rw [← hrow, ← hcol]

/-- `ERRINFO` of a ConfigurationError as a number: the row, and the column from bit 8 on (R27, R112). -/
theorem layout_configuration {i j : Nat} (hi : i < 64) (hj : j < 64) :
    (CmdError.configuration i j).layout = BitVec.ofNat 32 (i + 2 ^ 8 * j) := by
  have hor : i ||| j <<< 8 = i + 2 ^ 8 * j := by
    rw [Nat.or_comm, ← Nat.shiftLeft_add_eq_or_of_lt (by omega), Nat.shiftLeft_eq]
    omega
  apply BitVec.eq_of_toNat_eq
  calc (CmdError.configuration i j).layout.toNat
      = i ||| j <<< 8 := by
        have hi32 : i < 4294967296 := by omega
        have hj32 : j < 4294967296 := by omega
        have hj8 : j <<< 8 < 4294967296 := by
          rw [Nat.shiftLeft_eq]
          omega
        simp [CmdError.layout, Nat.mod_eq_of_lt, hi, hj, hi32, hj32, hj8]
    _ = (BitVec.ofNat 32 (i + 2 ^ 8 * j)).toNat := by
        rw [hor, BitVec.toNat_ofNat, Nat.mod_eq_of_lt (by omega)]

end Sys2Proof.Machine

namespace Sys2Proof.Claims
open Sys2Proof.Machine

/-- DERIVE_H on a left block that is not the identity raises with the first offender in `ERRINFO` (R112). -/
theorem gives_exec_deriveH_of_firstOffender {s : State} (hd : Dims s) (hg : s.gvalid = true) {i j : Nat}
    (h : FirstOffender s.matG s.kVal i j) :
    Gives (exec .deriveH s) (raised s .configurationError (BitVec.ofNat 32 (i + 2 ^ 8 * j))) := by
  have hok := dimsOk_of_dims hd
  have hk : s.kVal ≤ 32 := (s.dimsOk_iff.1 hok).2.1.trans (s.nVal_le hok)
  have hscan := h.identityMismatch_eq
  obtain ⟨hi, hj, -⟩ := h
  rw [← layout_configuration (by omega) (by omega)]
  exact ⟨s.rdata, s.draws + 1, execDeriveH_mismatch s hok hg hscan⟩

/-- A left block that is not the identity has a first offender (R112). -/
theorem exists_firstOffender {s : State} (h : ¬ LeftIdentity s) : ∃ i j, FirstOffender s.matG s.kVal i j := by
  cases hscan : identityMismatch s.matG s.kVal with
  | none => exact absurd (identityMismatch_eq_none.1 hscan) h
  | some p => exact ⟨p.1, p.2, firstOffender_of_identityMismatch hscan⟩

end Sys2Proof.Claims
end

section
/-! The state DERIVE_H leaves when it completes, and the H in it (R111). -/

namespace Sys2Proof.Machine

variable (s : State)

/-- The state DERIVE_H leaves when its checks pass (R111); `exec_deriveH_ok` says that it does. -/
def State.derived : State :=
  { s.countDraw with
    hmem := s.hmem.writeRows 0 ((List.range s.rVal).map fun j => packWord (parityRow s.matG s.kVal s.rVal j))
    hvalid := true }.invalidateTable.complete

theorem exec_deriveH_ok (h : s.dimsOk = true) (hg : s.gvalid = true) (hi : identityMismatch s.matG s.kVal = none) :
    exec .deriveH s = .next s.derived := execDeriveH_ok s h hg hi

@[simp] theorem length_parityRow (G : List Vec) (k r j : Nat) : (parityRow G k r j).length = k + r := by
  simp [parityRow]

/-- The right `r` elements of row `j` of H are the unit row `j` (R111). -/
theorem getD_parityRow {G : List Vec} {k r j c : Nat} (hc : c < r) :
    (parityRow G k r j).getD (k + c) false = ident j c := by
  simp [parityRow, List.getD_eq_getElem?_getD, hc]

theorem State.read_hmem_derived {j : Nat} (hj : j < s.rVal) :
    s.derived.hmem.read j = some (packWord (parityRow s.matG s.kVal s.rVal j)) := by
  simp [State.derived, Memory.read_writeRows, hj]

theorem State.read_hmem_derived_of_le {a : Nat} (ha : s.rVal ≤ a) : s.derived.hmem.read a = s.hmem.read a := by
  simp [State.derived, Memory.read_writeRows, Nat.not_lt.2 ha]

/-- The matrix in the state DERIVE_H leaves is `[Aᵗ | I]`, whatever HMEM held before (R111). -/
theorem State.matH_derived (h : s.dimsOk = true) :
    s.derived.matH = (List.range s.rVal).map (parityRow s.matG s.kVal s.rVal) := by
  refine List.map_congr_left fun j hj => ?_
  have hword : s.derived.hWord j = packWord (parityRow s.matG s.kVal s.rVal j) := by
    simp [State.hWord, State.rowWord, s.read_hmem_derived (List.mem_range.1 hj)]
  have hlen : s.nVal = (parityRow s.matG s.kVal s.rVal j).length := by
    have hkn := (s.dimsOk_iff.1 h).2.1
    rw [length_parityRow, State.rVal]
    omega
  have hn : (parityRow s.matG s.kVal s.rVal j).length ≤ 32 := hlen ▸ s.nVal_le h
  calc vec s.nVal (s.derived.hWord j).toNat
      = vec (parityRow s.matG s.kVal s.rVal j).length (packWord (parityRow s.matG s.kVal s.rVal j)).toNat := by
        rw [hword, hlen]
    _ = parityRow s.matG s.kVal s.rVal j := vec_packWord hn

theorem State.getD_matH_derived (h : s.dimsOk = true) {j : Nat} (hj : j < s.rVal) :
    s.derived.matH.getD j [] = parityRow s.matG s.kVal s.rVal j := by
  simp [s.matH_derived h, List.getD_eq_getElem?_getD, hj]

end Sys2Proof.Machine

namespace Sys2Proof.Claims
open Sys2Proof.Machine

/-- DERIVE_H with its checks passed, in the statements' terms (R111). -/
theorem exec_deriveH_eq_derived {s : State} (hd : Dims s) (hg : s.gvalid = true) (hl : LeftIdentity s) :
    exec .deriveH s = .next s.derived :=
  exec_deriveH_ok s (dimsOk_of_dims hd) hg (identityMismatch_eq_none.2 hl)

/-- A row of H as a number (R111 step 4): column `k + j` of G, then the unit bit. -/
theorem pack_parityRow {G : List Vec} {k r j : Nat} (hj : j < r) :
    pack (parityRow G k r j) = digits k (fun i => entry G i (k + j)) * 2 ^ r + 2 ^ (r - 1 - j) := by
  rw [parityRow, pack_append, pack_map_range, pack_map_ident hj, List.length_map, List.length_range]

end Sys2Proof.Claims
end

section
/-! The syndrome under the derived H (R114, R115): bit `j` is the parity of the first `k` elements against column `k + j` of
G, plus element `k + j`. -/

namespace Sys2Proof.Machine

theorem dot_comm (v u : Vec) : dot v u = dot u v := by
  rw [dot, dot, List.zipWith_comm_of_comm Bool.and_comm]

/-- The product of two vectors cut at the same place (R14). -/
theorem dot_append {u v : Vec} (h : u.length = v.length) (u' v' : Vec) :
    dot (u ++ u') (v ++ v') = xor (dot u v) (dot u' v') := by
  induction u generalizing v with
  | nil =>
    obtain rfl : v = [] := by simpa using h.symm
    simp
  | cons a u ih =>
    cases v with
    | nil => simp at h
    | cons b v =>
      rw [List.cons_append, List.cons_append, dot_cons_cons, dot_cons_cons, ih (by simpa using h), Bool.xor_assoc]

/-- Row `j` of H is column `k + j` of G followed by the unit row `j` (R111). -/
theorem parityRow_eq_append {G : List Vec} {k : Nat} (hG : G.length = k) (r j : Nat) :
    parityRow G k r j = column G (k + j) ++ (List.range r).map fun c => decide (c = j) := by
  have hunit : ident j = fun c => decide (c = j) := funext fun c => decide_eq_decide.2 eq_comm
  rw [parityRow, column_eq_map_entry, hG, hunit]

/-- The parity of a vector against row `j` of the derived H: its first `k` elements against column `k + j` of G, plus its
element `k + j` (R111, R114). -/
theorem dot_parityRow {G : List Vec} {k r : Nat} (hG : G.length = k) {v : Vec} (hv : v.length = k + r) (j : Nat) :
    dot v (parityRow G k r j) = xor (dot (v.take k) (column G (k + j))) (v.getD (k + j) false) := by
  have hleft : (v.take k).length = (column G (k + j)).length := by simp [column, hv, hG]
  have hright : (v.drop k).length = r := by simp [hv]
  calc dot v (parityRow G k r j)
      = dot (v.take k ++ v.drop k)
          (column G (k + j) ++ (List.range (v.drop k).length).map fun c => decide (c = j)) := by
        rw [List.take_append_drop, hright, parityRow_eq_append hG]
    _ = xor (dot (v.take k) (column G (k + j))) (v.getD (k + j) false) := by
        rw [dot_append hleft, dot_unit]
        simp [List.getD_eq_getElem?_getD]

/-- The syndrome under the derived H of a vector whose first `k` elements are 0 is the rest of the vector (R115). -/
theorem syn_parityRows_of_take_zero {G : List Vec} {k r : Nat} (hG : G.length = k) {v : Vec} (hv : v.length = k + r)
    (h0 : ∀ b ∈ v.take k, b = false) :
    syn ((List.range r).map (parityRow G k r)) v = (List.range r).map fun j => v.getD (k + j) false := by
  rw [syn, List.map_map]
  refine List.map_congr_left fun j _ => ?_
  rw [Function.comp_apply, dot_comm, dot_parityRow hG hv, dot_comm, dot_eq_false h0, Bool.false_xor]

/-- A codeword by its elements (R165). -/
theorem eq_map_of_encodeMessage {n : Nat} {m c : Vec} {G : List Vec} (h : encodeMessage n m G = some c) :
    c = (List.range n).map fun j => dot m (column G j) := by
  obtain ⟨-, hc⟩ : m.length = G.length ∧ ((List.range n).map fun j => dot m (column G j)) = c := by
    simpa [encodeMessage] using h
  exact hc.symm

theorem length_of_encodeMessage {n : Nat} {m c : Vec} {G : List Vec} (h : encodeMessage n m G = some c) :
    c.length = n := by simp [eq_map_of_encodeMessage h]

/-- Element `j` of a codeword is the parity of the message against column `j` of G (R165). -/
theorem getD_of_encodeMessage {n : Nat} {m c : Vec} {G : List Vec} (h : encodeMessage n m G = some c) {j : Nat}
    (hj : j < n) : c.getD j false = dot m (column G j) := by
  simp [eq_map_of_encodeMessage h, List.getD_eq_getElem?_getD, hj]

/-- A codeword of a G in standard form meets every parity of the derived H: its check bit `j` is the parity that the
message has against column `k + j` (R114). -/
theorem dot_parityRow_of_encodeMessage {G : List Vec} {k r : Nat} (hG : G.length = k)
    (hI : ∀ i j, i < k → j < k → entry G i j = ident i j) {m c : Vec} (h : encodeMessage (k + r) m G = some c) {j : Nat}
    (hj : j < r) : dot c (parityRow G k r j) = false := by
  subst hG
  rw [dot_parityRow rfl (length_of_encodeMessage h), take_of_encodeMessage (Nat.le_add_right _ _) hI h,
    getD_of_encodeMessage h (Nat.add_lt_add_left hj _), Bool.xor_self]

/-- The unit message `i` picks row `i` of G (R114, R165). -/
theorem encodeMessage_unit {n i : Nat} {G : List Vec} (hi : i < G.length) (hrow : (G.getD i []).length = n) :
    encodeMessage n ((List.range G.length).map fun c => decide (c = i)) G = some (G.getD i []) := by
  have helem : ∀ j, dot ((List.range G.length).map fun c => decide (c = i)) (column G j) = entry G i j := by
    intro j
    have hlen : (column G j).length = G.length := by simp [column]
    rw [dot_comm, ← hlen, dot_unit]
    simp [column, entry, List.getD_eq_getElem?_getD, hi]
  have hlist : ((List.range n).map fun j => entry G i j) = G.getD i [] := by
    subst hrow
    apply List.ext_getElem
    · simp
    · intro j h1 h2
      rw [List.getElem_map, List.getElem_range, entry, List.getD_eq_getElem _ _ h2]
  simp [encodeMessage, helem, hlist]

end Sys2Proof.Machine

namespace Sys2Proof.Claims
open Sys2Proof.Machine

/-- The length of a vector, cut where `[Aᵗ | I]` is (R111). -/
theorem kVal_add_rVal {s : State} (hd : Dims s) : s.kVal + s.rVal = s.nVal := Nat.add_sub_of_le hd.2.1

/-- No codeword has a parity error against a row of the derived H (R114). -/
theorem dot_matH_derived_of_encodeMessage {s : State} (hd : Dims s) (hl : LeftIdentity s) {m c : Vec}
    (hc : encodeMessage s.n.toNat m s.matG = some c) {h : Vec} (hh : h ∈ s.derived.matH) : dot c h = false := by
  have hlen : encodeMessage (s.kVal + s.rVal) m s.matG = some c := by
    rw [kVal_add_rVal hd]
    exact hc
  rw [s.matH_derived (dimsOk_of_dims hd)] at hh
  obtain ⟨j, hj, rfl⟩ := List.mem_map.1 hh
  exact dot_parityRow_of_encodeMessage s.length_matG hl hlen (List.mem_range.1 hj)

/-- A row of G is the codeword of a unit message (R114). -/
theorem encodeMessage_unit_matG {s : State} {i : Nat} (hi : i < s.k.toNat) :
    encodeMessage s.n.toNat ((List.range s.matG.length).map fun c => decide (c = i)) s.matG =
      some (s.matG.getD i []) := by
  have hG : i < s.matG.length := by
    rw [s.length_matG]
    exact hi
  refine encodeMessage_unit hG ?_
  rw [s.length_matG] at hG
  simp [State.matG, State.nVal, List.getD_eq_getElem?_getD, hG]

/-- The syndrome under the derived H of a vector with no 1 among its first `k` elements (R115). -/
theorem syn_matH_derived_of_getD {s : State} (hd : Dims s) {v : Vec} (hv : v.length = s.nVal)
    (h0 : ∀ i, i < s.kVal → v.getD i false = false) :
    syn s.derived.matH v = (List.range s.rVal).map fun j => v.getD (s.kVal + j) false := by
  rw [s.matH_derived (dimsOk_of_dims hd)]
  refine syn_parityRows_of_take_zero s.length_matG (hv.trans (kVal_add_rVal hd).symm) fun b hb => ?_
  obtain ⟨i, hi, rfl⟩ := List.mem_iff_getElem.1 hb
  obtain ⟨hik, hin⟩ : i < s.kVal ∧ i < v.length := by simpa using hi
  simpa [List.getD_eq_getElem?_getD, hin] using h0 i hik

/-- Every number below `2^r`, read as a vector of length `n`, is its own packed syndrome under the derived H (R115). -/
theorem synPacked_matH_derived_vec {s : State} (hd : Dims s) {a : Nat} (ha : a < 2 ^ s.rVal) :
    synPacked s.derived.matH (vec s.nVal a) = a := by
  have hn := kVal_add_rVal hd
  have h0 : ∀ i, i < s.kVal → (vec s.nVal a).getD i false = false := by
    intro i hi
    rw [getD_vec a (by omega)]
    exact Nat.testBit_lt_two_pow (ha.trans_le (Nat.pow_le_pow_right (by decide) (by omega)))
  have hsyn : syn s.derived.matH (vec s.nVal a) = vec s.rVal a := by
    rw [syn_matH_derived_of_getD hd (length_vec _ _) h0]
    refine List.map_congr_left fun j hj => ?_
    have hj' : j < s.rVal := List.mem_range.1 hj
    have hbit : s.nVal - 1 - (s.kVal + j) = s.rVal - 1 - j := by omega
    rw [getD_vec a (by omega), hbit]
  rw [synPacked, hsyn, pack_vec, Nat.mod_eq_of_lt ha]

/-- The single 1 at position `k + c` has the unit syndrome `c` under the derived H (R115). -/
theorem syn_matH_derived_unit {s : State} (hd : Dims s) (c : Nat) :
    syn s.derived.matH ((List.range s.nVal).map fun p => decide (p = s.kVal + c)) =
      (List.range s.rVal).map fun j => decide (j = c) := by
  have hn := kVal_add_rVal hd
  have helem : ∀ p, p < s.nVal →
      ((List.range s.nVal).map fun p => decide (p = s.kVal + c)).getD p false = decide (p = s.kVal + c) := by
    intro p hp
    simp [List.getD_eq_getElem?_getD, hp]
  rw [syn_matH_derived_of_getD hd (by simp) fun i hi => ?_]
  · refine List.map_congr_left fun j hj => ?_
    have hj' : j < s.rVal := List.mem_range.1 hj
    rw [helem _ (by omega)]
    simp
  · rw [helem i (by omega)]
    exact decide_eq_false (by omega)

end Sys2Proof.Claims
end

section
/-! The obligations about DERIVE_H (R111, R112, R114, R115). -/

open Sys2Proof Sys2Proof.Machine Sys2Proof.Claims

/-- Settles O16: the scan finds the first offender, and finds none in the identity. -/
theorem identityCheckReportsTheFirstOffender : Obligations.IdentityCheckReportsTheFirstOffender := by
  unfold Obligations.IdentityCheckReportsTheFirstOffender
  intro s hd hg
  constructor
  · intro i j hi hj hne hfirst
    exact gives_exec_deriveH_of_firstOffender hd hg ⟨hi, hj, hne, hfirst⟩
  · intro hl
    exact exec_deriveH_ended hd hg hl

/-- Settles O21: each check raises in its turn; otherwise `State.derived` is the next state, and its rows are read back. -/
theorem deriveHWritesTheTranspose : Obligations.DeriveHWritesTheTranspose := by
  unfold Obligations.DeriveHWritesTheTranspose
  refine ⟨decode_eq_ok_iff.2 (by decide), fun s => ⟨fun hd => ?_, fun hd hg => ?_, fun hd hg hl => ?_, fun hd hg hl => ?_⟩⟩
  · exact gives_raised (execDeriveH_dim s (dimsOk_of_not_dims hd))
  · exact gives_raised (execDeriveH_missing s (dimsOk_of_dims hd) hg)
  · obtain ⟨i, j, hfirst⟩ := exists_firstOffender hl
    have hgives := gives_exec_deriveH_of_firstOffender hd hg hfirst
    obtain ⟨hi, hj, hne, hbefore⟩ := hfirst
    exact ⟨i, j, hi, hj, hne, hbefore, hgives⟩
  · refine ⟨s.derived, exec_deriveH_eq_derived hd hg hl, ⟨rfl, rfl⟩, rfl, fun j hj => ?_, fun a ha => ?_⟩
    · rw [s.read_hmem_derived hj, packWord, pack_parityRow (r := s.rVal) hj]
      rfl
    · exact s.read_hmem_derived_of_le ha

/-- Settles O22: a codeword's check bits are the parities that H tests, and a row of G is the codeword of a unit message. -/
theorem codewordsLieInTheNullSpace : Obligations.CodewordsLieInTheNullSpace := by
  unfold Obligations.CodewordsLieInTheNullSpace
  intro s hd hg hl
  refine ⟨s.derived, exec_deriveH_eq_derived hd hg hl, fun i j hi hj => ?_, fun m c hc => ⟨length_of_encodeMessage hc, ?_⟩⟩
  · have hj' : j < s.derived.matH.length := by
      rw [State.length_matH]
      exact hj
    have hmem : s.derived.matH.getD j [] ∈ s.derived.matH := by
      rw [List.getD_eq_getElem _ _ hj']
      exact List.getElem_mem hj'
    exact dot_matH_derived_of_encodeMessage hd hl (encodeMessage_unit_matG hi) hmem
  · intro b hb
    obtain ⟨h, hh, rfl⟩ := List.mem_map.1 hb
    rw [dot_comm]
    exact dot_matH_derived_of_encodeMessage hd hl hc hh

/-- Settles O23: the syndrome of a vector whose first `k` elements are 0 is the rest of it. -/
theorem derivedSyndromeMapIsOnto : Obligations.DerivedSyndromeMapIsOnto := by
  unfold Obligations.DerivedSyndromeMapIsOnto
  intro s hd hg hl
  refine ⟨s.derived, exec_deriveH_eq_derived hd hg hl, fun j c hj hc => ?_, fun a ha => ?_, fun c _ => ?_⟩
  · rw [entry, s.getD_matH_derived (dimsOk_of_dims hd) hj]
    exact getD_parityRow hc
  · exact ⟨vec s.nVal a, length_vec _ _, synPacked_matH_derived_vec hd ha⟩
  · exact syn_matH_derived_unit hd c

end

section
/-! When a word memory lists every address below its bound (R40). -/

namespace Sys2Proof.Machine

variable {α : Type} {m : Memory α}

/-- A read answers a value exactly at the listed addresses. -/
theorem Memory.isSome_read_iff (m : Memory α) (a : Nat) : (m.read a).isSome ↔ a ∈ m.map Prod.fst := by
  induction m with
  | nil => simp
  | cons c m ih =>
    by_cases h : a = c.1
    · simp [Memory.read, h]
    · simpa [Memory.read, h] using ih

/-- A write to an address that is not listed adds one cell. -/
theorem Memory.length_write_of_read_eq_none {a : Nat} (h : m.read a = none) (x : α) :
    (m.write a x).length = m.length + 1 := by
  induction m with
  | nil => rfl
  | cons c m ih =>
    obtain ⟨b, y⟩ := c
    have hne : a ≠ b := by
      rintro rfl
      simp [Memory.read] at h
    have hm : Memory.read m a = none := by simpa [Memory.read, hne] using h
    rw [Memory.write, if_neg hne]
    split
    · rfl
    · rw [List.length_cons, ih hm, List.length_cons]

/-- A canonical memory with as many cells as there are addresses lists each of them. -/
theorem Memory.isSome_read_of_length_eq {bound : Nat} (h : m.within bound) (hlen : m.length = bound) {a : Nat}
    (ha : a < bound) : (m.read a).isSome := by
  obtain ⟨hwf, hlt⟩ := h
  have hsub : m.map Prod.fst ⊆ List.range bound := by
    intro b hb
    obtain ⟨c, hc, rfl⟩ := List.mem_map.1 hb
    exact List.mem_range.2 (hlt c hc)
  have hperm : (m.map Prod.fst).Perm (List.range bound) :=
    (List.subperm_of_subset (hwf.imp Nat.ne_of_lt) hsub).perm_of_length_le (by simp [hlen])
  exact (m.isSome_read_iff a).2 (hperm.mem_iff.2 (List.mem_range.2 ha))

end Sys2Proof.Machine
end

section
/-! The visiting order of BUILD_TABLE (R123), and its first pair with a given packed syndrome. -/

namespace Sys2Proof.Machine

theorem mem_weightClass {n w i : Nat} : i ∈ weightClass n w ↔ i < 2 ^ n ∧ wt (vec n i) = w := by
  simp [weightClass]

/-- Every index below `2^n` stands in the visiting order, with the weight of its vector (R123). -/
theorem mem_visitOrder {n w i : Nat} : (w, i) ∈ visitOrder n ↔ i < 2 ^ n ∧ wt (vec n i) = w := by
  have hmem : (w, i) ∈ visitOrder n ↔ w < n + 1 ∧ i ∈ weightClass n w := by simp [visitOrder]
  rw [hmem, mem_weightClass, and_iff_right_of_imp]
  rintro ⟨-, rfl⟩
  have hle := wt_le_length (vec n i)
  rw [length_vec] at hle
  omega

/-- A vector stands in the visiting order under its weight and its packed value (R123). -/
theorem wt_pack_mem_visitOrder (v : Vec) : (wt v, pack v) ∈ visitOrder v.length :=
  mem_visitOrder.2 ⟨pack_lt v, by rw [vec_pack]⟩

/-- The visiting order ascends by weight, and inside one weight by index (R123). -/
theorem pairwise_visitOrder (n : Nat) : (visitOrder n).Pairwise RowMajor := by
  rw [visitOrder, List.pairwise_flatMap]
  constructor
  · intro w _
    rw [List.pairwise_map]
    exact (List.pairwise_lt_range.filter _).imp fun h => .inr ⟨rfl, h⟩
  · refine List.pairwise_lt_range.imp fun {w w'} hlt p hp q hq => .inl ?_
    obtain ⟨i, -, rfl⟩ := List.mem_map.1 hp
    obtain ⟨i', -, rfl⟩ := List.mem_map.1 hq
    exact hlt

/-- The first (weight, index) pair of `order` whose vector has packed syndrome `a`. -/
def firstVisited (n : Nat) (H : List Vec) (order : List (Nat × Nat)) (a : Nat) : Option (Nat × Nat) :=
  order.find? fun p => synPacked H (vec n p.2) == a

variable {n a : Nat} {H : List Vec}

@[simp] theorem firstVisited_nil : firstVisited n H [] a = none := rfl

theorem firstVisited_cons (p : Nat × Nat) (rest : List (Nat × Nat)) :
    firstVisited n H (p :: rest) a = if a = synPacked H (vec n p.2) then some p else firstVisited n H rest a := by
  by_cases h : a = synPacked H (vec n p.2)
  · simp [firstVisited, h]
  · simp [firstVisited, h, Ne.symm h]

/-- An address that is no packed syndrome of `H` is never visited (R15). -/
theorem firstVisited_eq_none_of_le (order : List (Nat × Nat)) (ha : 2 ^ H.length ≤ a) :
    firstVisited n H order a = none := by
  refine List.find?_eq_none.2 fun p _ => ?_
  have hlt := synPacked_lt H (vec n p.2)
  rw [beq_iff_eq]
  omega

/-- The visiting order reaches exactly the packed syndromes of the vectors of length `n` (R124). -/
theorem isSome_firstVisited_visitOrder :
    (firstVisited n H (visitOrder n) a).isSome ↔ ∃ v : Vec, v.length = n ∧ synPacked H v = a := by
  rw [firstVisited, List.find?_isSome]
  constructor
  · rintro ⟨p, -, hp⟩
    exact ⟨vec n p.2, length_vec _ _, beq_iff_eq.1 hp⟩
  · rintro ⟨v, rfl, rfl⟩
    exact ⟨_, wt_pack_mem_visitOrder v, by rw [vec_pack, beq_self_eq_true]⟩

/-- The first vector visited of a packed syndrome has that syndrome and the weight it is visited under. -/
theorem vec_of_firstVisited {p : Nat × Nat} (h : firstVisited n H (visitOrder n) a = some p) :
    synPacked H (vec n p.2) = a ∧ wt (vec n p.2) = p.1 := by
  have hfound := List.find?_some h
  exact ⟨beq_iff_eq.1 hfound, (mem_visitOrder.1 (List.mem_of_find?_eq_some h)).2⟩

/-- The first vector visited of a packed syndrome has the least weight of that syndrome (R124). -/
theorem le_wt_of_firstVisited {p : Nat × Nat} (h : firstVisited n H (visitOrder n) a = some p) {v : Vec}
    (hv : v.length = n) (hsyn : synPacked H v = a) : p.1 ≤ wt v := by
  subst hv hsyn
  by_contra hlt
  have hne : (wt v, pack v) ≠ p := by
    rintro rfl
    exact hlt (le_refl _)
  have hafter : ¬ RowMajor p (wt v, pack v) := by
    simp only [RowMajor]
    omega
  have hskip := eq_false_of_find?_eq_some (pairwise_visitOrder _) h (wt_pack_mem_visitOrder v) hne hafter
  rw [vec_pack, beq_self_eq_true] at hskip
  exact Bool.noConfusion hskip

end Sys2Proof.Machine
end

section
/-! The walk of BUILD_TABLE and the table it leaves (R121, R124). -/

namespace Sys2Proof.Machine

variable {n full w i count : Nat} {H : List Vec} {rest : List (Nat × Nat)} {table : Memory (BitVec 6)}

@[simp] theorem buildWalk_nil : buildWalk n H full [] table count = table := rfl

/-- A syndrome recorded before is passed over. -/
theorem buildWalk_cons_seen (h : (table.read (synPacked H (vec n i))).isSome) :
    buildWalk n H full ((w, i) :: rest) table count = buildWalk n H full rest table count := by
  obtain ⟨x, hx⟩ := Option.isSome_iff_exists.1 h
  simp [buildWalk, hx]

/-- A new syndrome is recorded; the walk ends with the last one there can be. -/
theorem buildWalk_cons_new (h : table.read (synPacked H (vec n i)) = none) :
    buildWalk n H full ((w, i) :: rest) table count =
      if count + 1 = full then table.write (synPacked H (vec n i)) (BitVec.ofNat 6 w)
      else buildWalk n H full rest (table.write (synPacked H (vec n i)) (BitVec.ofNat 6 w)) (count + 1) := by
  simp [buildWalk, h]

/-- What the table holds at `a` once all of `order` has been walked: the entry recorded already, or else the weight of the
first vector visited with that packed syndrome. -/
def weightAfter (n : Nat) (H : List Vec) (order : List (Nat × Nat)) (table : Memory (BitVec 6)) (a : Nat) :
    Option (BitVec 6) :=
  (table.read a).or ((firstVisited n H order a).map fun p => BitVec.ofNat 6 p.1)

theorem weightAfter_cons_seen (h : (table.read (synPacked H (vec n i))).isSome) (a : Nat) :
    weightAfter n H ((w, i) :: rest) table a = weightAfter n H rest table a := by
  rw [weightAfter, weightAfter, firstVisited_cons]
  split
  · next ha =>
    obtain ⟨x, hx⟩ := Option.isSome_iff_exists.1 h
    simp [ha, hx]
  · rfl

theorem weightAfter_cons_new (h : table.read (synPacked H (vec n i)) = none) (a : Nat) :
    weightAfter n H ((w, i) :: rest) table a =
      weightAfter n H rest (table.write (synPacked H (vec n i)) (BitVec.ofNat 6 w)) a := by
  rw [weightAfter, weightAfter, firstVisited_cons, Memory.read_write]
  split
  · next ha => simp [ha, h]
  · rfl

/-- Nothing is left to record in a full table, so the walk may stop there (R121). -/
theorem weightAfter_of_full (order : List (Nat × Nat)) (h : table.within (2 ^ H.length))
    (hlen : table.length = 2 ^ H.length) (a : Nat) : weightAfter n H order table a = table.read a := by
  rcases Nat.lt_or_ge a (2 ^ H.length) with ha | ha
  · obtain ⟨x, hx⟩ := Option.isSome_iff_exists.1 (Memory.isSome_read_of_length_eq h hlen ha)
    simp [weightAfter, hx]
  · simp [weightAfter, firstVisited_eq_none_of_le order ha]

/-- The walk, early stop included, records each syndrome's first weight; the number it counts is the table's length. -/
theorem read_buildWalk (order : List (Nat × Nat)) (h : table.within (2 ^ H.length)) (a : Nat) :
    (buildWalk n H (2 ^ H.length) order table table.length).read a = weightAfter n H order table a := by
  induction order generalizing table with
  | nil => simp [weightAfter]
  | cons p rest ih =>
    obtain ⟨w, i⟩ := p
    cases hread : table.read (synPacked H (vec n i)) with
    | some x =>
      have hseen : (table.read (synPacked H (vec n i))).isSome := by simp [hread]
      rw [buildWalk_cons_seen hseen, weightAfter_cons_seen hseen, ih h]
    | none =>
      have hwithin := Memory.within_write h (synPacked_lt H (vec n i)) (BitVec.ofNat 6 w)
      have hlen := Memory.length_write_of_read_eq_none hread (BitVec.ofNat 6 w)
      rw [buildWalk_cons_new hread, weightAfter_cons_new hread, ← hlen]
      split
      · next hfull => rw [weightAfter_of_full rest hwithin hfull]
      · exact ih hwithin

variable (s : State)

/-- The state BUILD_TABLE leaves when its checks pass (R121). -/
def State.built : State :=
  { s.countDraw.invalidateTable with
    tmem := buildWalk s.nVal s.matH (2 ^ s.rVal) (visitOrder s.nVal) [] 0 }.complete

theorem exec_buildTable_ok (h : s.dimsOk = true) (hh : s.hvalid = true) : exec .buildTable s = .next s.built :=
  execBuildTable_ok s h hh

/-- The table BUILD_TABLE leaves, in the closed form of R124. -/
theorem State.read_tmem_built (a : Nat) :
    s.built.tmem.read a = (firstVisited s.nVal s.matH (visitOrder s.nVal) a).map fun p => BitVec.ofNat 6 p.1 := by
  have hwalk := read_buildWalk (n := s.nVal) (visitOrder s.nVal) (Memory.within_nil (2 ^ s.matH.length)) a
  rw [State.length_matH] at hwalk
  exact hwalk

/-- An address is valid after BUILD_TABLE iff it is the packed syndrome of some vector (R124). -/
theorem State.isSome_read_tmem_built (a : Nat) :
    (s.built.tmem.read a).isSome ↔ ∃ v : Vec, v.length = s.nVal ∧ synPacked s.matH v = a := by
  rw [State.read_tmem_built, Option.isSome_map, isSome_firstVisited_visitOrder]

/-- The weight of a valid entry after BUILD_TABLE is that of the vector visited first; it fits the 6 bits (R124). -/
theorem State.firstVisited_of_read_tmem_built (h : s.dimsOk = true) {a : Nat} {w : BitVec 6}
    (hw : s.built.tmem.read a = some w) :
    ∃ p, firstVisited s.nVal s.matH (visitOrder s.nVal) a = some p ∧ p.1 = w.toNat := by
  rw [State.read_tmem_built] at hw
  obtain ⟨p, hp, rfl⟩ := Option.map_eq_some_iff.1 hw
  have hle : p.1 ≤ 32 := by
    calc p.1 = wt (vec s.nVal p.2) := (vec_of_firstVisited hp).2.symm
      _ ≤ s.nVal := (wt_le_length _).trans_eq (length_vec _ _)
      _ ≤ 32 := s.nVal_le h
  exact ⟨p, hp, by rw [BitVec.toNat_ofNat, Nat.mod_eq_of_lt (by omega)]⟩

end Sys2Proof.Machine
end

section
/-! The obligations about the visiting order and the table's contents (R123, R124). -/

open Sys2Proof Sys2Proof.Machine Sys2Proof.Claims

/-- Settles O25: weight classes are disjoint and ascend, and a weight is at most `n`. -/
theorem visitingOrderIsByWeightThenIndex : Obligations.VisitingOrderIsByWeightThenIndex := by
  unfold Obligations.VisitingOrderIsByWeightThenIndex
  exact fun n => ⟨pairwise_visitOrder n, fun _ _ => mem_visitOrder⟩

/-- Settles O27: the entry at `a` is the weight of the first vector visited with packed syndrome `a`, and the order visits
lighter vectors first. -/
theorem builtTableHoldsLeastWeights : Obligations.BuiltTableHoldsLeastWeights := by
  unfold Obligations.BuiltTableHoldsLeastWeights
  intro s hd hh
  have hok := dimsOk_of_dims hd
  refine ⟨s.built, exec_buildTable_ok s hok hh, fun a _ => ⟨s.isSome_read_tmem_built a, fun w hw => ?_⟩⟩
  obtain ⟨p, hp, hpw⟩ := s.firstVisited_of_read_tmem_built hok hw
  obtain ⟨hsyn, hwt⟩ := vec_of_firstVisited hp
  rw [← hpw]
  exact ⟨⟨vec s.nVal p.2, length_vec _ _, hsyn, hwt⟩, fun v hv hv' => le_wt_of_firstVisited hp hv hv'⟩

end

section
/-! What DECODE and GET_PRIMARY do on a vector of zero syndrome (R136, R140, R143): its packed syndrome, the table's entry
for it after BUILD_TABLE, and the next states of the two commands. -/

namespace Sys2Proof.Machine

/-- The leading `k` elements are the quotient by the rest (R143). -/
theorem pack_take (v : Vec) (k : Nat) : pack (v.take k) = pack v / 2 ^ (v.length - k) := by
  have hrest : pack (v.drop k) < 2 ^ (v.length - k) := by simpa using pack_lt (v.drop k)
  have hcut : pack v = pack (v.take k) * 2 ^ (v.length - k) + pack (v.drop k) := by
    simpa using pack_append (v.take k) (v.drop k)
  rw [hcut, Nat.add_comm, Nat.add_mul_div_right _ _ (Nat.two_pow_pos _), Nat.div_eq_of_lt hrest, Nat.zero_add]

/-- GET_PRIMARY's result as a word (R143). -/
theorem packWord_take_vec (n k x : Nat) : packWord ((vec n x).take k) = BitVec.ofNat 32 ((x % 2 ^ n) >>> (n - k)) := by
  rw [packWord, pack_take, length_vec, pack_vec, Nat.shiftRight_eq_div_pow]

theorem pack_eq_zero {v : Vec} (h : ∀ b ∈ v, b = false) : pack v = 0 := by
  induction v with
  | nil => rfl
  | cons b v ih =>
    obtain ⟨rfl, hrest⟩ := List.forall_mem_cons.1 h
    simp [pack_cons, ih hrest]

/-- A vector that meets every parity has packed syndrome 0 (R15). -/
theorem synPacked_eq_zero {H : List Vec} {v : Vec} (h : ∀ row ∈ H, dot v row = false) : synPacked H v = 0 := by
  refine pack_eq_zero fun b hb => ?_
  obtain ⟨row, hrow, rfl⟩ := List.mem_map.1 hb
  rw [dot_comm]
  exact h row hrow

/-- A vector of zeros has packed syndrome 0 under every H (R15). -/
theorem synPacked_replicate_false (H : List Vec) (n : Nat) : synPacked H (List.replicate n false) = 0 := by
  refine synPacked_eq_zero fun row _ => ?_
  rw [dot_comm]
  exact dot_eq_false (fun _ hb => List.eq_of_mem_replicate hb) row

/-- A received vector whose entry has weight 0 is answered as it is (R136 step 4). -/
theorem decodeSearch_of_weight_zero {n : Nat} {H : List Vec} {table : Memory (BitVec 6)} {rv : Vec}
    (h : table.read (synPacked H rv) = some 0) : decodeSearch n H table rv = .ok (rv, 0) := by
  simp [decodeSearch, lookupWeight, h]

variable (s : State)

/-- After BUILD_TABLE the entry of the zero syndrome has weight 0, on every H (R125). -/
theorem State.read_tmem_built_zero : s.built.tmem.read 0 = some 0 := by
  have hzero := synPacked_replicate_false s.matH s.nVal
  obtain ⟨p, hp⟩ := Option.isSome_iff_exists.1 <|
    isSome_firstVisited_visitOrder.2 ⟨List.replicate s.nVal false, List.length_replicate, hzero⟩
  have hweight : p.1 = 0 := by
    have hle := le_wt_of_firstVisited hp List.length_replicate hzero
    simpa [wt, List.count_replicate] using hle
  simp [s.read_tmem_built, hp, hweight]

/-- The state DECODE leaves when its search ends with the vector `c.1` and the weight `c.2` (R136). -/
def State.decoded (c : Vec × BitVec 6) : State :=
  { s.countDraw with vr := packWord c.1, lenR := s.n, res := c.2 }.complete

/-- The state GET_PRIMARY leaves when its checks pass (R143). -/
def State.primary : State :=
  { s with vr := packWord ((vec s.nVal s.va.toNat).take s.kVal), lenR := s.k }.complete

/-- `s` with a vector as operand A, at the code length (R31, R146). -/
def State.received (c : Vec) : State := { s with va := packWord c, lenA := s.n }

theorem exec_getPrimary_ok (h : s.dimsOk = true) (hl : s.lenA = s.n) : exec .getPrimary s = .next s.primary :=
  execGetPrimary_ok s h hl

variable {s} {c : Vec}

/-- Both commands read back the vector the host loaded (R11, R31). -/
theorem State.vec_va_received (h : s.dimsOk = true) (hc : c.length = s.nVal) :
    vec (s.received c).nVal (s.received c).va.toNat = c := by
  show vec s.nVal (packWord c).toNat = c
  rw [← hc]
  exact vec_packWord (hc ▸ s.nVal_le h)

/-- DECODE of a vector whose entry has weight 0 returns it (R136 step 4, R140). -/
theorem exec_decode_received (h : s.dimsOk = true) (hh : s.hvalid = true) (hc : c.length = s.nVal)
    (h0 : s.tmem.read (synPacked (s.received c).matH c) = some 0) :
    exec .decode (s.received c) = .next ((s.received c).decoded (c, 0)) := by
  refine execDecode_ok (s.received c) h hh rfl ?_
  rw [State.vec_va_received h hc]
  exact decodeSearch_of_weight_zero h0

/-- GET_PRIMARY of a vector returns its leading `k` elements (R143). -/
theorem State.vr_primary_received (h : s.dimsOk = true) (hc : c.length = s.nVal) :
    (s.received c).primary.vr = packWord (c.take s.kVal) := by
  show packWord ((vec (s.received c).nVal (s.received c).va.toNat).take s.kVal) = packWord (c.take s.kVal)
  rw [State.vec_va_received h hc]

end Sys2Proof.Machine

namespace Sys2Proof.Claims
open Sys2Proof.Machine

/-- Two states with the same written H read the same matrix, whatever their draw counters (R52). -/
theorem matH_eq_of_hWritten {s t : State} (hw : HWritten s) (hn : t.n = s.n) (hk : t.k = s.k) (hh : t.hmem = s.hmem) :
    t.matH = s.matH := by
  have hnVal : t.nVal = s.nVal := by rw [State.nVal, hn, State.nVal]
  have hrVal : t.rVal = s.rVal := by rw [State.rVal, State.kVal, hnVal, hk, State.rVal, State.kVal]
  rw [State.matH, State.matH, hnVal, hrVal]
  refine List.map_congr_left fun i hi => ?_
  obtain ⟨x, hx⟩ := Option.isSome_iff_exists.1 (hw i (List.mem_range.1 hi))
  simp [State.hWord, State.rowWord, hh, hx]

/-- DERIVE_H has written every row of H (R111). -/
theorem hWritten_derived (s : State) : HWritten s.derived :=
  fun _ hi => Option.isSome_iff_exists.2 ⟨_, s.read_hmem_derived hi⟩

/-- A codeword has packed syndrome 0 under the derived H, as DECODE reads it after BUILD_TABLE (R114). -/
theorem synPacked_received_codeword {s : State} (hd : Dims s) (hl : LeftIdentity s) {m c : Vec}
    (hc : encodeMessage s.n.toNat m s.matG = some c) : synPacked (s.derived.built.received c).matH c = 0 := by
  rw [matH_eq_of_hWritten (s := s.derived) (t := s.derived.built.received c) (hWritten_derived s) rfl rfl rfl]
  exact synPacked_eq_zero fun _ hrow => dot_matH_derived_of_encodeMessage hd hl hc hrow

/-- The leading `k` elements of a codeword are its message (R146, R165). -/
theorem take_kVal_of_encodeMessage {s : State} (hd : Dims s) (hl : LeftIdentity s) {m c : Vec}
    (hc : encodeMessage s.n.toNat m s.matG = some c) : c.take s.kVal = m := by
  have hG := s.length_matG
  rw [← hG]
  exact take_of_encodeMessage (hG ▸ hd.2.1) (hG ▸ hl) hc

end Sys2Proof.Claims
end

section
/-! The obligations about GET_PRIMARY and the noiseless round trip (R143, R146). -/

open Sys2Proof Sys2Proof.Machine Sys2Proof.Claims

/-- Settles O36: the two checks raise in their order; otherwise the leading elements are a quotient of the packed vector. -/
theorem getPrimaryCutsTheLeadingBits : Obligations.GetPrimaryCutsTheLeadingBits := by
  unfold Obligations.GetPrimaryCutsTheLeadingBits
  refine ⟨decode_eq_ok_iff.2 (by decide), fun s => ⟨fun hd => ?_, fun hd hl => ?_, fun hd hl => ?_⟩⟩
  · exact gives_raised (execGetPrimary_dim s (dimsOk_of_not_dims hd))
  · exact gives_raised (execGetPrimary_len s (dimsOk_of_dims hd) hl)
  · rw [exec_getPrimary_ok s (dimsOk_of_dims hd) hl, State.primary, packWord_take_vec]
    exact Gives.of_eq_next rfl

/-- Settles O35: the codeword has zero syndrome under the derived H, whose rows BUILD_TABLE and DECODE read alike, so its
entry has weight 0 and DECODE returns it; its first `k` elements are the message. -/
theorem noiselessRoundTripReturnsTheMessage : Obligations.NoiselessRoundTripReturnsTheMessage := by
  unfold Obligations.NoiselessRoundTripReturnsTheMessage
  intro s hd hg hl m c hc
  have hok := dimsOk_of_dims hd
  have hlen : c.length = s.nVal := length_of_encodeMessage hc
  have hentry : s.derived.built.tmem.read (synPacked (s.derived.built.received c).matH c) = some 0 := by
    rw [synPacked_received_codeword hd hl hc]
    exact s.derived.read_tmem_built_zero
  have hdecode := exec_decode_received (s := s.derived.built) hok rfl hlen hentry
  have hmessage := State.vr_primary_received (s := (s.derived.built.received c).decoded (c, 0)) hok hlen
  refine ⟨s.derived, s.derived.built, (s.derived.built.received c).decoded (c, 0),
    (((s.derived.built.received c).decoded (c, 0)).received c).primary,
    exec_deriveH_eq_derived hd hg hl, ⟨rfl, rfl⟩, exec_buildTable_ok s.derived hok rfl, ⟨rfl, rfl⟩,
    hdecode, rfl, rfl, ⟨rfl, rfl⟩, exec_getPrimary_ok _ hok rfl, ?_, rfl, ⟨rfl, rfl⟩⟩
  exact hmessage.trans (congrArg packWord (take_kVal_of_encodeMessage hd hl hc))

end

section
/-! The distance engine (R155 to R160): the positions at which the operands differ, `PLIST` as that list read back, the
length check, and the states the two commands leave. -/

namespace Sys2Proof.Machine

/-- The vectors held in two words differ at index `j` iff the words differ at bit `L − 1 − j` (R11, R156). -/
theorem mismatches_vec (L : Nat) (x y : Word) :
    mismatches L (vec L x.toNat) (vec L y.toNat) = (List.range L).filter fun j => (x ^^^ y).getLsbD (L - 1 - j) := by
  refine List.filter_congr fun j hj => ?_
  have hj' : j < L := List.mem_range.1 hj
  rw [getD_vec _ hj', getD_vec _ hj', BitVec.testBit_toNat, BitVec.testBit_toNat, BitVec.getLsbD_xor, Bool.bne_eq_xor]

/-- Index `j` runs over the bits `L − 1 − j`: counting over the indices and over the bits gives one number (R11). -/
theorem countP_range_reflect (L : Nat) (p : Nat → Bool) :
    (List.range L).countP (fun j => p (L - 1 - j)) = (List.range L).countP p := by
  have hrev : (List.range L).map (fun j => L - 1 - j) = (List.range L).reverse := by
    simp [List.range_eq_range', List.reverse_range']
  calc (List.range L).countP (fun j => p (L - 1 - j))
      = ((List.range L).map fun j => L - 1 - j).countP p := List.countP_map.symm
    _ = (List.range L).countP p := by rw [hrev, List.countP_reverse]

/-- Reading back a listed position gives it, when the positions fit the five bits of an entry (R158 step 4). -/
theorem toNat_get_positionList {P : List Nat} (hP : ∀ j ∈ P, j < 32) {x : Fin 32} (hx : x.val < P.length) :
    ((positionList P).get x).toNat = P[x.val] := by
  have hlt : P[x.val] < 2 ^ 5 := hP _ (List.getElem_mem hx)
  rw [positionList, Vector.get_ofFn, List.getD_eq_getElem _ _ hx, BitVec.toNat_ofNat, Nat.mod_eq_of_lt hlt]

/-- The entries at and beyond the length of the list are 0 (R158 step 4). -/
theorem get_positionList_of_le {P : List Nat} {x : Fin 32} (hx : P.length ≤ x.val) : (positionList P).get x = 0 := by
  rw [positionList, Vector.get_ofFn, List.getD_eq_default _ _ hx]
  rfl

theorem positionList_nil : positionList [] = Vector.replicate 32 0 := by decide

variable {s : State}

theorem State.mismatchList_of_eq (h : s.lenA = s.lenB) :
    s.mismatchList = (List.range s.lenA.toNat).filter fun j => (s.va ^^^ s.vb).getLsbD (s.lenA.toNat - 1 - j) := by
  rw [State.mismatchList, if_pos h, State.vecA, State.vecB, ← h, mismatches_vec]

theorem State.mismatchList_of_ne (h : s.lenA ≠ s.lenB) : s.mismatchList = [] := if_neg h

theorem State.noteFallback_of_eq (h : s.lenA = s.lenB) : s.noteFallback = s := if_pos h

theorem State.noteFallback_of_ne (h : s.lenA ≠ s.lenB) :
    s.noteFallback = { s with status := { s.status with softfb := true } } := if_neg h

/-- The fallback flag is all that `noteFallback` touches (R184). -/
theorem State.noteFallback_frame (s : State) : s.noteFallback = { s with status := s.noteFallback.status } := by
  rw [State.noteFallback]
  split
  · rfl
  · rfl

theorem State.mem_mismatchList (h : s.lenA = s.lenB) {j : Nat} :
    j ∈ s.mismatchList ↔ j < s.lenA.toNat ∧ (s.va ^^^ s.vb).getLsbD (s.lenA.toNat - 1 - j) = true := by
  rw [State.mismatchList_of_eq h, List.mem_filter, List.mem_range]

theorem State.pairwise_mismatchList (h : s.lenA = s.lenB) : s.mismatchList.Pairwise (· < ·) := by
  rw [State.mismatchList_of_eq h]
  exact List.pairwise_lt_range.filter _

/-- The number of differing indices is the number of differing bits below the length (R156). -/
theorem State.length_mismatchList (h : s.lenA = s.lenB) :
    s.mismatchList.length = (List.range s.lenA.toNat).countP fun b => (s.va ^^^ s.vb).getLsbD b := by
  rw [State.mismatchList_of_eq h, ← List.countP_eq_length_filter, countP_range_reflect]

theorem State.length_mismatchList_le (s : State) : s.mismatchList.length ≤ s.lenA.toNat := by
  rw [State.mismatchList]
  split
  · exact (List.length_filter_le _ _).trans_eq List.length_range
  · exact Nat.zero_le _

/-- The number of mismatches of vectors that fit one word fits the six bits of `RES` and `PCNT` (R34, R35). -/
theorem State.toNat_length_mismatchList (hA : s.lenA.toNat ≤ 32) :
    (BitVec.ofNat 6 s.mismatchList.length).toNat = s.mismatchList.length := by
  have hle := s.length_mismatchList_le
  rw [BitVec.toNat_ofNat]
  exact Nat.mod_eq_of_lt (by omega)

/-- Empty operands differ nowhere (R160). -/
theorem State.mismatchList_of_zero (hA : s.lenA = 0) : s.mismatchList = [] := by
  have hle := s.length_mismatchList_le
  rw [hA] at hle
  exact List.length_eq_zero_iff.1 (Nat.le_zero.1 hle)

variable (s)

/-- The state CNT_ERR leaves when its check passes (R156). -/
def State.counted : State := { s.noteFallback with res := BitVec.ofNat 6 s.mismatchList.length }.complete

/-- The state ERR_POS leaves when its check passes (R158). -/
def State.located : State :=
  { s.noteFallback with
    pcnt := BitVec.ofNat 6 s.mismatchList.length
    plist := positionList s.mismatchList }.complete

/-- The check both commands make: the raise of LEN when a length exceeds 32 (R157), otherwise `t`. -/
def State.lengthChecked (t : State) : State := if s.lengthsTooLong then s.raise (.validation .len) else t

theorem State.lengthChecked_of_gt (t : State) (h : 32 < s.lenA.toNat ∨ 32 < s.lenB.toNat) :
    s.lengthChecked t = s.raise (.validation .len) := if_pos (by simpa [State.lengthsTooLong] using h)

theorem State.lengthChecked_of_le (t : State) (hA : s.lenA.toNat ≤ 32) (hB : s.lenB.toNat ≤ 32) :
    s.lengthChecked t = t := if_neg (by simp [State.lengthsTooLong, hA, hB])

/-- CNT_ERR on every state (R156). -/
theorem exec_cntErr : exec .cntErr s = .next (s.lengthChecked s.counted) := by
  show execCntErr s = _
  cases h : s.lengthsTooLong with
  | true => rw [execCntErr_len s h, State.lengthChecked, if_pos h]
  | false => rw [execCntErr_ok s h, State.lengthChecked, if_neg (ne_true_of_eq_false h), State.counted]

/-- ERR_POS on every state (R158). -/
theorem exec_errPos : exec .errPos s = .next (s.lengthChecked s.located) := by
  show execErrPos s = _
  cases h : s.lengthsTooLong with
  | true => rw [execErrPos_len s h, State.lengthChecked, if_pos h]
  | false => rw [execErrPos_ok s h, State.lengthChecked, if_neg (ne_true_of_eq_false h), State.located]

theorem exec_cntErr_ok (hA : s.lenA.toNat ≤ 32) (hB : s.lenB.toNat ≤ 32) : exec .cntErr s = .next s.counted := by
  rw [exec_cntErr, s.lengthChecked_of_le _ hA hB]

theorem exec_errPos_ok (hA : s.lenA.toNat ≤ 32) (hB : s.lenB.toNat ≤ 32) : exec .errPos s = .next s.located := by
  rw [exec_errPos, s.lengthChecked_of_le _ hA hB]

/-! Neither command writes the other's result registers (R159). -/

@[simp] theorem State.res_located : s.located.res = s.res := by
  rw [State.located, s.noteFallback_frame]
  rfl

@[simp] theorem State.pcnt_counted : s.counted.pcnt = s.pcnt := by
  rw [State.counted, s.noteFallback_frame]
  rfl

@[simp] theorem State.plist_counted : s.counted.plist = s.plist := by
  rw [State.counted, s.noteFallback_frame]
  rfl

variable {s}

theorem State.counted_of_eq (h : s.lenA = s.lenB) :
    s.counted = { s with res := BitVec.ofNat 6 s.mismatchList.length }.complete := by
  rw [State.counted, State.noteFallback_of_eq h]

theorem State.counted_of_ne (h : s.lenA ≠ s.lenB) :
    s.counted = { s with status := { s.status with softfb := true }, res := 0 }.complete := by
  rw [State.counted, State.noteFallback_of_ne h, State.mismatchList_of_ne h]
  rfl

theorem State.located_of_eq (h : s.lenA = s.lenB) :
    s.located = { s with
      pcnt := BitVec.ofNat 6 s.mismatchList.length, plist := positionList s.mismatchList }.complete := by
  rw [State.located, State.noteFallback_of_eq h]

theorem State.located_of_ne (h : s.lenA ≠ s.lenB) :
    s.located = { s with
      status := { s.status with softfb := true }, pcnt := 0, plist := Vector.replicate 32 0 }.complete := by
  rw [State.located, State.noteFallback_of_ne h, State.mismatchList_of_ne h, positionList_nil]
  rfl

/-- What the distance engine reads is the same in both states: the four operands and `STATUS` (R160). -/
structure SameOperands (s u : State) : Prop where
  va     : s.va = u.va
  lenA   : s.lenA = u.lenA
  vb     : s.vb = u.vb
  lenB   : s.lenB = u.lenB
  status : s.status = u.status

variable {u : State}

theorem SameOperands.mismatchList_eq (h : SameOperands s u) : s.mismatchList = u.mismatchList := by
  simp only [State.mismatchList, State.vecA, State.vecB, h.va, h.lenA, h.vb, h.lenB]

theorem SameOperands.status_noteFallback (h : SameOperands s u) : s.noteFallback.status = u.noteFallback.status := by
  simp only [State.noteFallback, apply_ite State.status, h.lenA, h.lenB, h.status]

theorem SameOperands.lengthsTooLong_eq (h : SameOperands s u) : s.lengthsTooLong = u.lengthsTooLong := by
  simp only [State.lengthsTooLong, h.lenA, h.lenB]

/-- With the same operands the check decides alike, and its raise leaves the same `STATUS` (R157, R181). -/
theorem SameOperands.status_lengthChecked (h : SameOperands s u) {t v : State} (ht : t.status = v.status) :
    (s.lengthChecked t).status = (u.lengthChecked v).status := by
  rw [State.lengthChecked, State.lengthChecked, h.lengthsTooLong_eq]
  split
  · rw [State.raise_status, State.raise_status, h.status]
  · exact ht

theorem SameOperands.status_counted (h : SameOperands s u) : s.counted.status = u.counted.status := by
  simp only [State.counted, State.complete_status, h.status_noteFallback]

theorem SameOperands.status_located (h : SameOperands s u) : s.located.status = u.located.status := by
  simp only [State.located, State.complete_status, h.status_noteFallback]

end Sys2Proof.Machine
end

section
/-! The obligations about the distance engine (R156, R158 to R160). -/

open Sys2Proof Sys2Proof.Machine Sys2Proof.Claims

/-- Settles O37: the check raises; otherwise `State.counted` is the next state, and the differing indices are as many as
the differing bits. -/
theorem cntErrCountsDifferingBits : Obligations.CntErrCountsDifferingBits := by
  unfold Obligations.CntErrCountsDifferingBits
  refine ⟨decode_eq_ok_iff.2 (by decide), fun s => ⟨fun hlong => ?_, fun hA hB hne => ?_, fun hA heq => ?_⟩⟩
  · exact gives_raised ((exec_cntErr s).trans (congrArg _ (s.lengthChecked_of_gt _ hlong)))
  · rw [exec_cntErr_ok s hA hB, State.counted_of_ne hne]
    exact Gives.of_eq_next rfl
  · refine ⟨s.counted, exec_cntErr_ok s hA (heq ▸ hA), ?_⟩
    rw [State.counted_of_eq heq]
    exact ⟨⟨rfl, rfl⟩, rfl, (State.toNat_length_mismatchList hA).trans (State.length_mismatchList heq)⟩

/-- Settles O38: the check raises; otherwise `State.located` is the next state, and its `PLIST` holds the differing indices
in ascending order. -/
theorem errPosListsDifferingIndices : Obligations.ErrPosListsDifferingIndices := by
  unfold Obligations.ErrPosListsDifferingIndices
  refine ⟨decode_eq_ok_iff.2 (by decide), fun s => ⟨fun hlong => ?_, fun hA hB hne => ?_, fun hA heq => ?_⟩⟩
  · exact gives_raised ((exec_errPos s).trans (congrArg _ (s.lengthChecked_of_gt _ hlong)))
  · rw [exec_errPos_ok s hA hB, State.located_of_ne hne]
    exact Gives.of_eq_next rfl
  · refine ⟨s.located, exec_errPos_ok s hA (heq ▸ hA), ?_⟩
    rw [State.located_of_eq heq]
    have hlen := s.length_mismatchList_le
    have hfit : ∀ j ∈ s.mismatchList, j < 32 := fun j hj => ((State.mem_mismatchList heq).1 hj).1.trans_le hA
    have hpcnt := State.toNat_length_mismatchList hA
    refine ⟨⟨rfl, rfl⟩, rfl, ?_, fun x hx => ?_, fun j hj hd => ?_, fun x y hxy hy => ?_, fun x hx => ?_⟩
    · exact hpcnt.trans_le (hlen.trans hA)
    · have hx := hx.trans_eq hpcnt
      simp only [State.complete_plist, toNat_get_positionList hfit hx]
      exact (State.mem_mismatchList heq).1 (List.getElem_mem hx)
    · obtain ⟨t, ht, htj⟩ := List.getElem_of_mem ((State.mem_mismatchList heq).2 ⟨hj, hd⟩)
      exact ⟨⟨t, ht.trans_le (hlen.trans hA)⟩, ht.trans_eq hpcnt.symm, (toNat_get_positionList hfit ht).trans htj⟩
    · have hy := hy.trans_eq hpcnt
      have hx : x.val < s.mismatchList.length := lt_trans hxy hy
      rw [BitVec.lt_def, State.complete_plist, toNat_get_positionList hfit hx, toNat_get_positionList hfit hy]
      exact List.pairwise_iff_getElem.1 (State.pairwise_mismatchList heq) _ _ hx hy hxy
    · exact get_positionList_of_le (hpcnt.symm.trans_le hx)

/-- Settles O39: both results are the length of the one mismatch list. -/
theorem countAndListAgree : Obligations.CountAndListAgree := by
  unfold Obligations.CountAndListAgree
  intro s hA hB
  exact ⟨s.counted, s.located, exec_cntErr_ok s hA hB, exec_errPos_ok s hA hB, rfl, s.res_located,
    s.pcnt_counted, s.plist_counted⟩

/-- Settles O40: check, flag and mismatch list are made of the operands and `STATUS` alone; empty operands have equal
lengths and no mismatch. -/
theorem distanceEngineIgnoresTheCode : Obligations.DistanceEngineIgnoresTheCode := by
  unfold Obligations.DistanceEngineIgnoresTheCode
  constructor
  · intro s u hva hlenA hvb hlenB hstatus
    have hsame : SameOperands s u := ⟨hva, hlenA, hvb, hlenB, hstatus⟩
    refine ⟨⟨_, _, exec_cntErr s, exec_cntErr u, hsame.status_lengthChecked hsame.status_counted, fun hA hB => ?_⟩,
      ⟨_, _, exec_errPos s, exec_errPos u, hsame.status_lengthChecked hsame.status_located, fun hA hB => ?_⟩⟩
    · rw [s.lengthChecked_of_le _ hA hB, u.lengthChecked_of_le _ (hlenA ▸ hA) (hlenB ▸ hB)]
      exact congrArg (fun P : List Nat => BitVec.ofNat 6 P.length) hsame.mismatchList_eq
    · rw [s.lengthChecked_of_le _ hA hB, u.lengthChecked_of_le _ (hlenA ▸ hA) (hlenB ▸ hB)]
      exact ⟨congrArg (fun P : List Nat => BitVec.ofNat 6 P.length) hsame.mismatchList_eq,
        congrArg positionList hsame.mismatchList_eq⟩
  · intro s hA hB
    have heq : s.lenA = s.lenB := hA.trans hB.symm
    have hAle : s.lenA.toNat ≤ 32 := by rw [hA]; decide
    refine ⟨s.counted, s.located, exec_cntErr_ok s hAle (heq ▸ hAle), exec_errPos_ok s hAle (heq ▸ hAle), ?_⟩
    rw [State.counted_of_eq heq, State.located_of_eq heq, State.mismatchList_of_zero hA]
    exact ⟨rfl, rfl, rfl, rfl⟩

end

section
/-! What Transmit answers (R167, R169): each bit of the vector, flipped iff its draw is at most `pe`. -/

namespace Sys2Proof.Machine

variable {v : Vec} {u : List Rat}

theorem length_transmit (h : u.length = v.length) (pe : Rat) : (transmit v pe u).length = v.length := by
  rw [transmit, List.length_zipWith, h, Nat.min_self]

theorem getElem_transmit (pe : Rat) {j : Nat} (hv : j < v.length) (hu : j < u.length)
    (hj : j < (transmit v pe u).length) : (transmit v pe u)[j] = xor v[j] (decide (u[j] ≤ pe)) :=
  List.getElem_zipWith

/-- Bit `j` is flipped iff draw `j` is at most `pe` (R167). -/
theorem getD_transmit (h : u.length = v.length) (pe : Rat) {j : Nat} (hj : j < v.length) :
    (transmit v pe u).getD j false = xor (v.getD j false) (decide (u.getD j 0 ≤ pe)) := by
  have hu : j < u.length := hj.trans_eq h.symm
  have ht : j < (transmit v pe u).length := hj.trans_eq (length_transmit h pe).symm
  rw [List.getD_eq_getElem _ _ hj, List.getD_eq_getElem _ _ hu, List.getD_eq_getElem _ _ ht,
    getElem_transmit pe hj hu ht]

/-- When the comparison comes out alike for every draw, every bit meets the same fate. -/
theorem transmit_eq_map {pe : Rat} {b : Bool} (h : u.length = v.length) (hb : ∀ x ∈ u, decide (x ≤ pe) = b) :
    transmit v pe u = v.map (xor · b) := by
  refine List.ext_getElem ((length_transmit h pe).trans (List.length_map _).symm) fun j ht hm => ?_
  have hv : j < v.length := hm.trans_eq (List.length_map _)
  have hu : j < u.length := hv.trans_eq h.symm
  rw [getElem_transmit pe hv hu ht, List.getElem_map, hb _ (List.getElem_mem hu)]

/-- Draws of at most `pe` flip every bit (R169). -/
theorem transmit_of_forall_le {pe : Rat} (h : u.length = v.length) (hu : ∀ x ∈ u, x ≤ pe) :
    transmit v pe u = v.map not := by
  simp [transmit_eq_map h fun x hx => decide_eq_true (hu x hx)]

/-- Draws above `pe` flip no bit (R169). -/
theorem transmit_of_forall_lt {pe : Rat} (h : u.length = v.length) (hu : ∀ x ∈ u, pe < x) :
    transmit v pe u = v := by
  simp [transmit_eq_map h fun x hx => decide_eq_false (hu x hx).not_ge]

end Sys2Proof.Machine
end

section
/-! The obligation about Transmit (R169). -/

open Sys2Proof Sys2Proof.Machine Sys2Proof.Claims

/-- Settles O59: no draw of `[0,1)` is above 1, and one that is at most 0 is 0. -/
theorem transmitComparesWithLessOrEqual : Obligations.TransmitComparesWithLessOrEqual := by
  unfold Obligations.TransmitComparesWithLessOrEqual
  intro c u hlen hdraws
  refine ⟨?_, fun j hj => ?_, fun hne => ?_⟩
  · exact transmit_of_forall_le hlen fun x hx => (hdraws x hx).2.le
  · have hu : j < u.length := hj.trans_eq hlen.symm
    have hnonneg : 0 ≤ u.getD j 0 := by
      rw [List.getD_eq_getElem _ _ hu]
      exact (hdraws _ (List.getElem_mem hu)).1
    rw [getD_transmit hlen 0 hj, decide_eq_decide.2 hnonneg.ge_iff_eq']
  · exact transmit_of_forall_lt hlen fun x hx => lt_of_le_of_ne (hdraws x hx).1 (hne x hx).symm

end

section
/-! What a command body and a step can do, said once over all commands and all inputs: `exec_leaves` and
`stepLeaves_of_step`. The statements about every command or every step are case splits over these (R88, R181, R20). -/

namespace Sys2Proof.Machine

/-- A ValidationError is laid out as R27 says. -/
theorem errinfoFits_validation (c : SubCause) :
    errinfoFits (CmdError.validation c).kind (CmdError.validation c).layout = true := by
  cases c <;> decide

/-- Row and column of a ConfigurationError stand in bits 5:0 and 13:8 (R27). -/
theorem errinfoFits_configuration (i j : Nat) :
    errinfoFits (CmdError.configuration i j).kind (CmdError.configuration i j).layout = true := by
  have hrow : ∀ x : BitVec 6, (0x3F3F : Word) &&& x.setWidth 32 = x.setWidth 32 := by decide
  have hcol : ∀ x : BitVec 6, (0x3F3F : Word) &&& x.setWidth 32 <<< 8 = x.setWidth 32 <<< 8 := by decide
  show (_ &&& (0x3F3F : Word) == _) = true
  rw [beq_iff_eq, CmdError.layout, BitVec.and_comm, BitVec.and_or_distrib_left, hrow, hcol]

/-- A packed syndrome has at most 31 bits (R27). -/
theorem errinfoFits_internalInvariant (a : Nat) :
    errinfoFits (CmdError.internalInvariant a).kind (CmdError.internalInvariant a).layout = true := by
  simp [CmdError.kind, CmdError.layout, errinfoFits]

theorem exec_decode_ok {s : State} (hd : s.dimsOk = true) (hh : s.hvalid = true) (hl : s.lenA = s.n) {c : Vec × BitVec 6}
    (hs : decodeSearch s.nVal s.matH s.tmem (vec s.nVal s.va.toNat) = .ok c) : exec .decode s = .next (s.decoded c) :=
  execDecode_ok s hd hh hl hs

theorem exec_decode_miss {s : State} (hd : s.dimsOk = true) (hh : s.hvalid = true) (hl : s.lenA = s.n) {a : Nat}
    (hs : decodeSearch s.nVal s.matH s.tmem (vec s.nVal s.va.toNat) = .error a) :
    exec .decode s = .next (s.countDraw.raise (.internalInvariant a)) :=
  execDecode_miss s hd hh hl hs

/-- Everything the body of a command can leave: the raise of one error, laid out as R27 says (R181), or, under the
command's checks, its results (R88). -/
inductive ExecLeaves (s : State) : Instr → State → Prop where
  | raised {i : Instr} (e : CmdError) (d : Nat) (he : errinfoFits e.kind e.layout = true) :
      ExecLeaves s i ({ s with draws := d }.raise e)
  | generated (hd : s.dimsOk = true) : ExecLeaves s .genG s.generated
  | derived (hd : s.dimsOk = true) (hg : s.gvalid = true) (hi : identityMismatch s.matG s.kVal = none) :
      ExecLeaves s .deriveH s.derived
  | built (hd : s.dimsOk = true) (hh : s.hvalid = true) : ExecLeaves s .buildTable s.built
  | decoded (hd : s.dimsOk = true) {c : Vec × BitVec 6}
      (hs : decodeSearch s.nVal s.matH s.tmem (vec s.nVal s.va.toNat) = .ok c) : ExecLeaves s .decode (s.decoded c)
  | primary (hd : s.dimsOk = true) : ExecLeaves s .getPrimary s.primary
  | counted : ExecLeaves s .cntErr s.counted
  | located (hA : s.lenA.toNat ≤ 32) (hB : s.lenB.toNat ≤ 32) : ExecLeaves s .errPos s.located

/-- A failed check raises its ValidationError. -/
theorem ExecLeaves.validation {s : State} {i : Instr} (c : SubCause) :
    ExecLeaves s i (s.raise (.validation c)) := .raised (.validation c) s.draws (errinfoFits_validation c)

/-- Every command on every state answers a next state, and this is what it can be. -/
theorem exec_leaves (i : Instr) (s : State) : ∃ t, exec i s = .next t ∧ ExecLeaves s i t := by
  cases i with
  | genG =>
    cases hd : s.dimsOk with
    | false => exact ⟨_, execGenG_dim s hd, .validation _⟩
    | true => exact ⟨_, exec_genG_ok s hd, .generated hd⟩
  | deriveH =>
    cases hd : s.dimsOk with
    | false => exact ⟨_, execDeriveH_dim s hd, .validation _⟩
    | true =>
      cases hg : s.gvalid with
      | false => exact ⟨_, execDeriveH_missing s hd hg, .validation _⟩
      | true =>
        cases hi : identityMismatch s.matG s.kVal with
        | none => exact ⟨_, exec_deriveH_ok s hd hg hi, .derived hd hg hi⟩
        | some p => exact ⟨_, execDeriveH_mismatch s hd hg hi, .raised _ _ (errinfoFits_configuration p.1 p.2)⟩
  | buildTable =>
    cases hd : s.dimsOk with
    | false => exact ⟨_, execBuildTable_dim s hd, .validation _⟩
    | true =>
      cases hh : s.hvalid with
      | false => exact ⟨_, execBuildTable_missing s hd hh, .validation _⟩
      | true => exact ⟨_, exec_buildTable_ok s hd hh, .built hd hh⟩
  | decode =>
    cases hd : s.dimsOk with
    | false => exact ⟨_, execDecode_dim s hd, .validation _⟩
    | true =>
      cases hh : s.hvalid with
      | false => exact ⟨_, execDecode_missing s hd hh, .validation _⟩
      | true =>
        by_cases hl : s.lenA = s.n
        · cases hs : decodeSearch s.nVal s.matH s.tmem (vec s.nVal s.va.toNat) with
          | ok c => exact ⟨_, exec_decode_ok hd hh hl hs, .decoded hd hs⟩
          | error a => exact ⟨_, exec_decode_miss hd hh hl hs, .raised _ _ (errinfoFits_internalInvariant a)⟩
        · exact ⟨_, execDecode_len s hd hh hl, .validation _⟩
  | getPrimary =>
    cases hd : s.dimsOk with
    | false => exact ⟨_, execGetPrimary_dim s hd, .validation _⟩
    | true =>
      by_cases hl : s.lenA = s.n
      · exact ⟨_, exec_getPrimary_ok s hd hl, .primary hd⟩
      · exact ⟨_, execGetPrimary_len s hd hl, .validation _⟩
  | cntErr =>
    refine ⟨_, exec_cntErr s, ?_⟩
    rw [State.lengthChecked]
    split
    · exact .validation _
    · exact .counted
  | errPos =>
    refine ⟨_, exec_errPos s, ?_⟩
    by_cases hlong : 32 < s.lenA.toNat ∨ 32 < s.lenB.toNat
    · rw [s.lengthChecked_of_gt _ hlong]
      exact .validation _
    · obtain ⟨hA, hB⟩ : s.lenA.toNat ≤ 32 ∧ s.lenB.toNat ≤ 32 := by omega
      rw [s.lengthChecked_of_le _ hA hB]
      exact .located hA hB

theorem execLeaves_of_exec {i : Instr} {s t : State} (h : exec i s = .next t) : ExecLeaves s i t := by
  obtain ⟨u, hu, hleaves⟩ := exec_leaves i s
  rw [hu] at h
  injection h with h
  exact h ▸ hleaves

/-- A host write acts on an idle block that is not held at reset, and is dropped by any other (R64, R66, R200). -/
theorem State.hostWrite_cases (s : State) (a : BitVec 7) (v : Word) :
    s.hostWrite a v = s ∨ s.seq = .idle ∧ s.rstHeld = false ∧ s.hostWrite a v = s.writeReg v (regAt a) := by
  cases hseq : s.seq with
  | running w => exact .inl (s.hostWrite_busy a v (State.busy_running hseq))
  | idle =>
    cases hrst : s.rstHeld with
    | true => exact .inl (s.hostWrite_held a v hrst)
    | false => exact .inr ⟨rfl, rfl, s.hostWrite_idle a v (State.busy_idle hseq) hrst⟩

end Sys2Proof.Machine

namespace Sys2Proof.Claims
open Sys2Proof.Machine

/-- Everything a step can leave: the state but for the inputs and the port, the body of the latched command, the raise of
a latched word that is illegal, the host's write on an idle block, or the values of R201. -/
inductive StepLeaves (s : State) : State → Prop where
  | kept (inp : List Input) (p : Word) (d : Nat) : StepLeaves s { s with inputs := inp, rdata := p, draws := d }
  | ran {i : Instr} {inp : List Input} {t : State} (hr : RunsNow s i) (h : ExecLeaves { s with inputs := inp } i t) :
      StepLeaves s t
  | illegal {w : Word} {e : DecodeError} (inp : List Input) (hs : s.seq = .running w) (he : decode w = .error e) :
      StepLeaves s ({ s with inputs := inp }.raise (.illegalCommand w))
  | wrote {a : BitVec 7} {v : Word} {rest : List Input} (h : HostWrites s a v rest) :
      StepLeaves s ({ s with inputs := rest }.writeReg v (regAt a))
  | reset (u : State) (h : ResetNow s) (hu : u.lastRow = s.lastRow) : StepLeaves s u.resetValues

/-- The sequencer's turn, for a step whose environment is silent. -/
theorem stepLeaves_of_sequencerTurn {s t : State} {inp : List Input}
    (hin : s.inputs = [] ∨ ∃ rest, s.inputs = .quiet :: rest)
    (h : { s with inputs := inp }.sequencerTurn = .next t) : StepLeaves s t := by
  obtain ⟨-, rfl⟩ | ⟨w, i, hrst, hseq, hdec, hexec⟩ | ⟨w, e, -, hseq, hdec, rfl⟩ := sequencerTurn_cases h
  · exact .kept inp s.rdata s.draws
  · exact .ran ⟨hrst, ⟨w, hseq, hdec⟩, hin⟩ (execLeaves_of_exec hexec)
  · exact .illegal inp hseq hdec

/-- The host's write, dropped or made (R64, R66, R200). -/
theorem stepLeaves_of_hostWrite {s : State} {a : BitVec 7} {v : Word} {rest : List Input}
    (hin : s.inputs = .write a v :: rest) : StepLeaves s ({ s with inputs := rest }.hostWrite a v) := by
  obtain hdropped | ⟨hseq, hrst, hmade⟩ := State.hostWrite_cases { s with inputs := rest } a v
  · rw [hdropped]
    exact .kept rest s.rdata s.draws
  · rw [hmade]
    exact .wrote ⟨hseq, hrst, hin⟩

/-- What a step can leave. -/
theorem stepLeaves_of_step {s t : State} (h : step s = .next t) : StepLeaves s t := by
  obtain ⟨_, ⟨rfl, hin⟩ | ⟨rest, hin, rfl⟩, hturn⟩ | ⟨a, rest, -, rfl⟩ | ⟨a, v, rest, hin, rfl⟩ |
    ⟨level, rest, hin, rfl⟩ := step_cases h
  · exact stepLeaves_of_sequencerTurn (.inl hin) hturn
  · exact stepLeaves_of_sequencerTurn (.inr ⟨rest, hin⟩) hturn
  · exact .kept rest _ _
  · exact stepLeaves_of_hostWrite hin
  · obtain ⟨-, -, hrst⟩ | ⟨hnow, hrst⟩ := State.rst_cases { s with inputs := rest } level
    · rw [hrst]
      exact .kept rest s.rdata s.draws
    · rw [hrst]
      exact .reset { { s with inputs := rest }.takeRnd _ with rstHeld := level, draws := s.draws + 1 }
        ⟨level, rest, hin, hnow⟩ rfl

end Sys2Proof.Claims
end

section
/-! What the searches of DECODE and BUILD_TABLE leave: a vector of the same length with its own table weight (R136, R138),
and a table in canonical form below `2^r` (R121). -/

namespace Sys2Proof.Machine

variable {H : List Vec} {table : Memory (BitVec 6)}

theorem lookupWeight_eq_ok {a : Nat} {w : BitVec 6} : lookupWeight table a = .ok w ↔ table.read a = some w := by
  unfold lookupWeight
  split <;> simp [*]

/-- `c` answers the search for `v` at weight `w`: it is as long, holds its own table weight, and that is at most `w`. -/
def Improves (H : List Vec) (table : Memory (BitVec 6)) (v : Vec) (w : BitVec 6) (c : Vec × BitVec 6) : Prop :=
  c.1.length = v.length ∧ table.read (synPacked H c.1) = some c.2 ∧ c.2 ≤ w

/-- The scan keeps a flip only at a lower weight, so it ends with the weight of its vector, at most the first (R138). -/
theorem improves_of_searchFlips {l : List Nat} {v : Vec} {w : BitVec 6} {c : Vec × BitVec 6}
    (h : searchFlips H table l v w = .ok c) (hw : table.read (synPacked H v) = some w) : Improves H table v w c := by
  induction l generalizing v w with
  | nil =>
    obtain rfl : (v, w) = c := by simpa [searchFlips] using h
    exact ⟨rfl, hw, BitVec.le_refl w⟩
  | cons i rest ih =>
    rw [searchFlips] at h
    cases hlook : lookupWeight table (synPacked H (flipAt v i)) with
    | error a => simp [hlook] at h
    | ok w2 =>
      have hw2 := lookupWeight_eq_ok.1 hlook
      simp only [hlook] at h
      split at h
      next h0 =>
        obtain rfl : (flipAt v i, 0) = c := by simpa using h
        exact ⟨length_flipAt v i, h0 ▸ hw2, Nat.zero_le _⟩
      next =>
        split at h
        next hlt =>
          obtain ⟨hlen, hread, hle⟩ := ih h hw2
          exact ⟨hlen.trans (length_flipAt v i), hread, BitVec.le_trans hle (BitVec.le_of_lt hlt)⟩
        next => exact ih h hw

/-- What DECODE's search answers when no lookup misses (R136, R138). -/
theorem improves_of_decodeSearch {n : Nat} {rv : Vec} {c : Vec × BitVec 6} (h : decodeSearch n H table rv = .ok c) :
    ∃ w, table.read (synPacked H rv) = some w ∧ Improves H table rv w c := by
  rw [decodeSearch] at h
  cases hlook : lookupWeight table (synPacked H rv) with
  | error a => simp [hlook] at h
  | ok w =>
    have hw := lookupWeight_eq_ok.1 hlook
    simp only [hlook] at h
    refine ⟨w, hw, ?_⟩
    split at h
    next =>
      obtain rfl : (rv, w) = c := by simpa using h
      exact ⟨rfl, hw, BitVec.le_refl w⟩
    next => exact improves_of_searchFlips h hw

/-- The walk writes at packed syndromes only, so its table stays canonical and below `2^r` (R15, R121). -/
theorem within_buildWalk {n full : Nat} (order : List (Nat × Nat)) (h : table.within (2 ^ H.length)) (count : Nat) :
    (buildWalk n H full order table count).within (2 ^ H.length) := by
  induction order generalizing table count with
  | nil => exact h
  | cons p rest ih =>
    obtain ⟨w, i⟩ := p
    cases hread : table.read (synPacked H (vec n i)) with
    | some x =>
      rw [buildWalk_cons_seen (Option.isSome_iff_exists.2 ⟨x, hread⟩)]
      exact ih h count
    | none =>
      have hwrite := Memory.within_write h (synPacked_lt H (vec n i)) (BitVec.ofNat 6 w)
      rw [buildWalk_cons_new hread]
      split
      · exact hwrite
      · exact ih hwrite (count + 1)

theorem Memory.within_mono {α : Type} {m : Memory α} {b c : Nat} (h : m.within b) (hbc : b ≤ c) : m.within c :=
  ⟨h.1, fun x hx => (h.2 x hx).trans_le hbc⟩

variable (s : State)

/-- The table BUILD_TABLE leaves is canonical and lists addresses below `2^r` only (R121). -/
theorem State.within_tmem_built : s.built.tmem.within (2 ^ s.rVal) := by
  have h := within_buildWalk (n := s.nVal) (full := 2 ^ s.rVal) (visitOrder s.nVal)
    (Memory.within_nil (2 ^ s.matH.length)) 0
  rw [State.length_matH] at h
  exact h

end Sys2Proof.Machine
end

section
/-! The invariant of Safety.lean, kept by each thing a step can leave: the values of R201, the host's write, the body of a
command. -/

namespace Sys2Proof.Machine

variable {s : State}

/-- The inputs, the port and the draw counter are no part of the invariant. -/
theorem State.Inv.with_port (h : s.Inv) (inp : List Input) (p : Word) (d : Nat) :
    { s with inputs := inp, rdata := p, draws := d }.Inv :=
  { h with held := fun hrst =>
      congrArg (fun u : State => { u with inputs := inp, rdata := p, draws := d }) (h.held hrst) }

/-- The values of R201 meet the invariant, whatever `N_MAX` and the port are. -/
theorem State.inv_resetValues (s : State) : s.resetValues.Inv where
  memories := ⟨Memory.within_nil _, Memory.within_nil _, Memory.within_nil _⟩
  taddr := Nat.two_pow_pos _
  busy := nofun
  errinfo := rfl
  fallback := nofun
  result := ⟨Nat.two_pow_pos _, Nat.zero_le _⟩
  positions := ⟨Nat.zero_le _, fun t _ => by simp [State.resetValues, State.reset, Vector.get], nofun⟩
  held := fun _ => rfl

/-- On a state that is idle and not held at reset, two clauses of the invariant say nothing. -/
theorem State.busyClean_of_idle (h : s.seq = .idle) : s.BusyClean := fun _ hw => absurd (h.symm.trans hw) nofun

theorem State.heldAtReset_of_released (h : s.rstHeld = false) : s.HeldAtReset := fun hr => absurd (h.symm.trans hr) nofun

/-- An error raised on a clean `STATUS` keeps the invariant (R181). -/
theorem State.Inv.raise (h : s.Inv) (hrst : s.rstHeld = false) (hsoft : s.status.softfb = false) {e : CmdError}
    (he : errinfoFits e.kind e.layout = true) : (s.raise e).Inv :=
  { h with
    busy := State.busyClean_of_idle rfl
    errinfo := he
    fallback := fun hs => absurd (hsoft.symm.trans hs) nofun
    held := State.heldAtReset_of_released hrst }

/-- A completion keeps the invariant (R88). -/
theorem State.Inv.complete (h : s.Inv) (hrst : s.rstHeld = false) : s.complete.Inv :=
  { h with
    busy := State.busyClean_of_idle rfl
    held := State.heldAtReset_of_released hrst }

/-- The start of a command keeps the invariant (R87). -/
theorem State.Inv.start (h : s.Inv) (hrst : s.rstHeld = false) {w : Word} (hw : (commandOf w).isSome) :
    (s.start w).Inv :=
  { h with
    busy := by
      rintro _ ⟨⟩
      exact ⟨hw, rfl, rfl, rfl⟩
    errinfo := rfl
    fallback := nofun
    held := State.heldAtReset_of_released hrst }

/-- A write to `CMD` starts a command, or starts and ends one that is illegal (R84, R87). -/
theorem State.Inv.writeCmd (h : s.Inv) (hseq : s.seq = .idle) (hrst : s.rstHeld = false) (v : Word) :
    (s.writeCmd v).Inv := by
  cases hd : decode v with
  | ok i =>
    rw [s.writeCmd_legal hd]
    exact h.start hrst (Option.isSome_iff_exists.2 ⟨i, commandOf_eq_some.2 hd⟩)
  | error e =>
    rw [s.writeCmd_illegal hd]
    have hcleared : { s with
        status := { s.status with done := false, err := .noError, softfb := false }, errinfo := 0 }.Inv :=
      { h with
        busy := State.busyClean_of_idle hseq
        errinfo := rfl
        fallback := nofun
        held := State.heldAtReset_of_released hrst }
    exact hcleared.raise hrst rfl (Option.isNone_iff_eq_none.2 (commandOf_eq_none.2 ⟨e, hd⟩))

/-- A `TDATA` write reaches one address, which `TADDR` keeps in range (R41). -/
theorem State.within_tmem_writeTdata (h : s.Inv) (v : Word) : (s.writeTdata v).tmem.within s.tDepth := by
  obtain ⟨-, -, htmem⟩ := h.memories
  rw [State.writeTdata]
  split
  · exact Memory.within_write htmem h.taddr _
  · exact Memory.within_erase htmem _

theorem State.writeTdata_frame (s : State) (v : Word) : s.writeTdata v = { s with tmem := (s.writeTdata v).tmem } := by
  rw [State.writeTdata]
  split
  · rfl
  · rfl

/-- `TADDR` is cut to its range (R41). -/
theorem toNat_taddr_lt (i : Fin 32) (x : Nat) : (BitVec.ofNat 32 (x % 2 ^ i.val)).toNat < 2 ^ i.val :=
  (BitVec.toNat_ofNat _ _).trans_le (Nat.mod_le _ _) |>.trans_lt (Nat.mod_lt _ (Nat.two_pow_pos _))

/-- The host's write to any register of an idle block keeps the invariant (R64). -/
theorem State.Inv.writeReg (h : s.Inv) (hseq : s.seq = .idle) (hrst : s.rstHeld = false) (v : Word) (r : Reg) :
    (s.writeReg v r).Inv := by
  have hbusy : ∀ u : State, u.seq = s.seq → u.BusyClean := fun u hu => State.busyClean_of_idle (hu.trans hseq)
  have hheld : ∀ u : State, u.rstHeld = s.rstHeld → u.HeldAtReset :=
    fun u hu => State.heldAtReset_of_released (hu.trans hrst)
  obtain ⟨hgmem, hhmem, htmem⟩ := h.memories
  cases r with
  | cmd => exact h.writeCmd hseq hrst v
  | status => exact { h with busy := hbusy _ rfl, held := hheld _ rfl }
  | n => exact { h with memories := ⟨hgmem, hhmem, Memory.within_nil _⟩, busy := hbusy _ rfl, held := hheld _ rfl }
  | k => exact { h with memories := ⟨hgmem, hhmem, Memory.within_nil _⟩, busy := hbusy _ rfl, held := hheld _ rfl }
  | taddr => exact { h with taddr := toNat_taddr_lt _ _, held := hheld _ rfl }
  | tdata =>
    have hframe : s.writeReg v .tdata = { s with tmem := (s.writeTdata v).tmem } := s.writeTdata_frame v
    rw [hframe]
    exact { h with memories := ⟨hgmem, hhmem, State.within_tmem_writeTdata h v⟩, held := hheld _ rfl }
  | gmem i =>
    rw [State.writeReg]
    split
    next hi =>
      have hrow : i.val < s.nMax := Nat.lt_succ_of_le (of_decide_eq_true hi)
      exact { h with memories := ⟨Memory.within_write hgmem hrow v, hhmem, htmem⟩, held := hheld _ rfl }
    next => exact h
  | hmem i =>
    rw [State.writeReg]
    split
    next hi =>
      have hrow : i.val < s.nMax := Nat.lt_succ_of_le (of_decide_eq_true hi)
      exact { h with
        memories := ⟨hgmem, Memory.within_write hhmem hrow v, Memory.within_nil _⟩, held := hheld _ rfl }
    next => exact h
  | ctrl => exact { h with held := hheld _ rfl }
  | mvalid => exact { h with held := hheld _ rfl }
  | va => exact { h with held := hheld _ rfl }
  | lenA => exact { h with held := hheld _ rfl }
  | vb => exact { h with held := hheld _ rfl }
  | lenB => exact { h with held := hheld _ rfl }
  | _ => exact h

/-- A result vector as long as its length register says has no stray bits (R12, R33). -/
theorem toNat_packWord_lt {v : Vec} {L : Nat} (h : v.length = L) : (packWord v).toNat < 2 ^ L :=
  (Nat.mod_le _ _).trans_lt (h ▸ pack_lt v)

/-- The list ERR_POS leaves is ordered, with 0 beyond it (R35, R158). -/
theorem State.positionsOrdered_located (hA : s.lenA.toNat ≤ 32) (hB : s.lenB.toNat ≤ 32) :
    s.located.PositionsOrdered := by
  by_cases heq : s.lenA = s.lenB
  · obtain ⟨t, ht, -, -, hle, -, -, hordered, hzero⟩ := (errPosListsDifferingIndices.2 s).2.2 hA heq
    rw [exec_errPos_ok s hA hB] at ht
    injection ht with ht
    rw [ht]
    exact ⟨hle, hzero, hordered⟩
  · rw [State.located_of_ne heq]
    exact ⟨Nat.zero_le _, fun t _ => by simp [Vector.get], nofun⟩

/-- With legal dimensions the rows of G and H and the syndromes fit the memories (R8, R178). -/
theorem State.dims_fit (hd : s.dimsOk = true) : s.kVal ≤ s.nMax ∧ s.rVal ≤ s.nMax ∧ 2 ^ s.rVal ≤ s.tDepth := by
  obtain ⟨hk, hkn, hn⟩ := s.dimsOk_iff.1 hd
  have hr : s.rVal = s.nVal - s.kVal := rfl
  have hmax : s.nMax = s.lastRow.val + 1 := rfl
  exact ⟨by omega, by omega, Nat.pow_le_pow_right (by decide) (by omega)⟩

/-- A completion with the soft fallback noted keeps the invariant when no error stands (R155, R184). -/
theorem State.Inv.noteFallback_complete (h : s.Inv) (hrst : s.rstHeld = false) (herr : s.status.err = .noError) :
    s.noteFallback.complete.Inv := by
  rw [State.noteFallback]
  split
  · exact h.complete hrst
  · exact { h.complete hrst with
      busy := State.busyClean_of_idle rfl
      fallback := fun _ => herr
      held := State.heldAtReset_of_released hrst }

/-- The body of a command, run on a clean `STATUS`, keeps the invariant. -/
theorem State.Inv.execLeaves {t : State} {i : Instr} (h : s.Inv) (hrst : s.rstHeld = false)
    (herr : s.status.err = .noError) (hsoft : s.status.softfb = false) (ht : ExecLeaves s i t) : t.Inv := by
  obtain ⟨hgmem, hhmem, htmem⟩ := h.memories
  have hfallback : s.noteFallback.rstHeld = false := (congrArg State.rstHeld s.noteFallback_frame).trans hrst
  cases ht with
  | raised e d he => exact (h.with_port s.inputs s.rdata d).raise hrst hsoft he
  | generated hd =>
    obtain ⟨hk, -, -⟩ := State.dims_fit hd
    exact { h.complete hrst with
      memories := ⟨Memory.within_writeRows hgmem 0 _ (by simpa using hk), hhmem, htmem⟩
      held := State.heldAtReset_of_released hrst }
  | derived hd =>
    obtain ⟨-, hr, -⟩ := State.dims_fit hd
    exact { h.complete hrst with
      memories := ⟨hgmem, Memory.within_writeRows hhmem 0 _ (by simpa using hr), Memory.within_nil _⟩
      held := State.heldAtReset_of_released hrst }
  | built hd =>
    obtain ⟨-, -, hdepth⟩ := State.dims_fit hd
    exact { h.complete hrst with
      memories := ⟨hgmem, hhmem, Memory.within_mono s.within_tmem_built hdepth⟩
      held := State.heldAtReset_of_released hrst }
  | decoded hd hs =>
    obtain ⟨-, -, hlen, -, -⟩ := improves_of_decodeSearch hs
    exact { h.complete hrst with
      result := ⟨toNat_packWord_lt (hlen.trans (length_vec _ _)), s.nVal_le hd⟩
      held := State.heldAtReset_of_released hrst }
  | primary hd =>
    obtain ⟨-, hkn, -⟩ := s.dimsOk_iff.1 hd
    have hlen : ((vec s.nVal s.va.toNat).take s.kVal).length = s.kVal := by simpa using hkn
    exact { h.complete hrst with
      result := ⟨toNat_packWord_lt hlen, hkn.trans (s.nVal_le hd)⟩
      held := State.heldAtReset_of_released hrst }
  | counted =>
    exact { h.noteFallback_complete hrst herr with held := State.heldAtReset_of_released hfallback }
  | located hA hB =>
    exact { h.noteFallback_complete hrst herr with
      positions := State.positionsOrdered_located hA hB
      held := State.heldAtReset_of_released hfallback }

end Sys2Proof.Machine

namespace Sys2Proof.Claims
open Sys2Proof.Machine

/-- The invariant is kept by everything a step can leave. -/
theorem inv_of_stepLeaves {s t : State} (h : s.Inv) (ht : StepLeaves s t) : t.Inv := by
  cases ht with
  | kept inp p d => exact h.with_port inp p d
  | @ran i inp _ hr hleaves =>
    obtain ⟨hrst, ⟨w, hseq, -⟩, -⟩ := hr
    obtain ⟨-, -, herr, hsoft⟩ := h.busy w hseq
    exact (h.with_port inp s.rdata s.draws).execLeaves hrst herr hsoft hleaves
  | @illegal w e inp hseq he =>
    obtain ⟨hlegal, -⟩ := h.busy w hseq
    rw [commandOf_eq_none.2 ⟨e, he⟩] at hlegal
    cases hlegal
  | @wrote a v rest hw =>
    obtain ⟨hseq, hrst, -⟩ := hw
    exact (h.with_port rest s.rdata s.draws).writeReg hseq hrst v (regAt a)
  | reset u => exact u.inv_resetValues

end Sys2Proof.Claims
end

section
/-! The obligations about the invariant (R201 and the rules its clauses cite). -/

open Sys2Proof Sys2Proof.Machine Sys2Proof.Claims

/-- Settles O58: whatever a step leaves, `stepLeaves_of_step`, keeps the invariant. -/
theorem everyStepKeepsTheInvariant : Obligations.EveryStepKeepsTheInvariant := by
  unfold Obligations.EveryStepKeepsTheInvariant
  intro s t h hstep
  exact inv_of_stepLeaves h (stepLeaves_of_step hstep)

/-- Settles O57: the reset state has the values of R201. -/
theorem resetMeetsTheInvariant : Obligations.ResetMeetsTheInvariant := by
  unfold Obligations.ResetMeetsTheInvariant
  exact State.inv_resetValues State.reset

end

section
/-! The syndrome is linear, and a flip adds a column of H (R14, R15). -/

namespace Sys2Proof.Machine

/-- The product with an exclusive-or is the exclusive-or of the products (R14). -/
theorem dot_zipWith_xor (h : Vec) {u v : Vec} (huv : u.length = v.length) :
    dot h (List.zipWith xor u v) = xor (dot h u) (dot h v) := by
  induction h generalizing u v with
  | nil => rfl
  | cons a h ih =>
    cases u with
    | nil =>
      obtain rfl : v = [] := by simpa using huv.symm
      simp
    | cons b u =>
      cases v with
      | nil => simp at huv
      | cons c v =>
        rw [List.zipWith_cons_cons, dot_cons_cons, dot_cons_cons, dot_cons_cons, ih (by simpa using huv),
          Bool.and_xor_distrib_left]
        rw [Bool.xor_assoc, Bool.xor_assoc, Bool.xor_left_comm (a && c)]

/-- Flipping element `i` changes the product exactly where the other vector has a 1 (R14). -/
theorem dot_flipAt {h v : Vec} (hlen : h.length = v.length) (i : Nat) (hi : i < v.length) :
    dot h (flipAt v i) = xor (dot h v) (h.getD i false) := by
  induction h generalizing v i with
  | nil => exact absurd (hlen ▸ hi : i < ([] : Vec).length) (Nat.not_lt_zero i)
  | cons a h ih =>
    cases v with
    | nil => simp at hi
    | cons b v =>
      cases i with
      | zero =>
        have hflip : flipAt (b :: v) 0 = (!b) :: v := rfl
        rw [hflip, dot_cons_cons, dot_cons_cons]
        cases a with
        | false => simp
        | true => simp [Bool.xor_comm]
      | succ i =>
        have hflip : flipAt (b :: v) (i + 1) = b :: flipAt v i := rfl
        rw [hflip, dot_cons_cons, dot_cons_cons, ih (by simpa using hlen) i (by simpa using hi)]
        simp

/-- The syndrome is linear (R15). -/
theorem syn_zipWith_xor (H : List Vec) {u v : Vec} (huv : u.length = v.length) :
    syn H (List.zipWith xor u v) = List.zipWith xor (syn H u) (syn H v) := by
  rw [syn, syn, syn, List.zipWith_map_left, List.zipWith_map_right, List.zipWith_self]
  exact List.map_congr_left fun h _ => dot_zipWith_xor h huv

/-- Flipping element `i` adds column `i` of H to the syndrome (R15). -/
theorem syn_flipAt {H : List Vec} {v : Vec} (hH : ∀ h ∈ H, h.length = v.length) {i : Nat} (hi : i < v.length) :
    syn H (flipAt v i) = List.zipWith xor (syn H v) (column H i) := by
  rw [syn, syn, column, List.zipWith_map_left, List.zipWith_map_right, List.zipWith_self]
  exact List.map_congr_left fun h hh => dot_flipAt (hH h hh) i hi

end Sys2Proof.Machine
end

section
/-! The obligation about the syndrome (R15). -/

open Sys2Proof Sys2Proof.Machine Sys2Proof.Claims

/-- Settles O24: row by row, `dot` is linear and a flip of element `i` adds the row's element `i`. -/
theorem syndromeIsLinear : Obligations.SyndromeIsLinear := by
  unfold Obligations.SyndromeIsLinear
  exact fun H a => ⟨fun _ hab => syn_zipWith_xor H hab, fun _ hi hH => syn_flipAt hH hi⟩

end

section
/-! The table as a list: how many addresses it lists (R42), and what BUILD_TABLE leaves there (R121, R125). -/

namespace Sys2Proof.Machine

/-- A canonical memory lists exactly the addresses below its bound that a read answers (R42). -/
theorem Memory.length_eq_countP {α : Type} {m : Memory α} {bound : Nat} (h : m.within bound) :
    m.length = (List.range bound).countP fun a => (m.read a).isSome := by
  obtain ⟨hwf, hlt⟩ := h
  have hperm : (m.map Prod.fst).Perm ((List.range bound).filter fun a => (m.read a).isSome) := by
    refine (List.perm_ext_iff_of_nodup (hwf.imp Nat.ne_of_lt) (List.nodup_range.filter _)).2 fun a => ?_
    rw [List.mem_filter, List.mem_range, m.isSome_read_iff, and_iff_right_of_imp]
    intro ha
    obtain ⟨c, hc, rfl⟩ := List.mem_map.1 ha
    exact hlt c hc
  rw [List.countP_eq_length_filter, ← hperm.length_eq, List.length_map]

/-- A memory that a read answers everywhere below its bound has as many cells as addresses. -/
theorem Memory.length_eq_bound {α : Type} {m : Memory α} {bound : Nat} (h : m.within bound)
    (hall : ∀ a, a < bound → (m.read a).isSome) : m.length = bound := by
  rw [Memory.length_eq_countP h, List.countP_eq_length.2 fun a ha => hall a (List.mem_range.1 ha), List.length_range]

variable {s : State}

/-- `TCOUNT` reads the length of the list of valid entries, which fits a word (R42). -/
theorem State.toNat_tcount (h : s.tmem.length ≤ 2 ^ s.lastRow.val) : (s.regValue .tcount).toNat = s.tmem.length := by
  have hpow : 2 ^ s.lastRow.val ≤ 2 ^ 31 := Nat.pow_le_pow_right (by decide) (by omega)
  show (BitVec.ofNat 32 s.tmem.length).toNat = _
  rw [BitVec.toNat_ofNat, Nat.mod_eq_of_lt (by omega)]

theorem State.tcount_eq_countP (h : s.MemoriesWf) :
    (s.regValue .tcount).toNat = (List.range (2 ^ s.lastRow.val)).countP fun a => (s.tmem.read a).isSome := by
  obtain ⟨-, -, htmem⟩ := h
  have hlen := Memory.length_eq_countP htmem
  rw [State.toNat_tcount (hlen.trans_le (List.countP_le_length.trans_eq List.length_range)), hlen]
  rfl

/-- On an onto H, BUILD_TABLE fills the table below `2^r` (R125). -/
theorem State.length_tmem_built (honto : ∀ a, a < 2 ^ s.rVal → ∃ v : Vec, v.length = s.nVal ∧ synPacked s.matH v = a) :
    s.built.tmem.length = 2 ^ s.rVal :=
  Memory.length_eq_bound s.within_tmem_built fun a ha => (s.isSome_read_tmem_built a).2 (honto a ha)

/-- No entry from `2^r` on is valid after BUILD_TABLE (R121). -/
theorem State.read_tmem_built_of_le {a : Nat} (ha : 2 ^ s.rVal ≤ a) : s.built.tmem.read a = none := by
  rw [s.read_tmem_built, firstVisited_eq_none_of_le _ (s.length_matH.symm ▸ ha)]
  rfl

end Sys2Proof.Machine
end

section
/-! The obligations about the table as a whole (R42, R121, R122, R125). -/

open Sys2Proof Sys2Proof.Machine Sys2Proof.Claims

/-- Settles O45: the list of valid entries has each valid address once. -/
theorem tcountCountsTheValidEntries : Obligations.TcountCountsTheValidEntries := by
  unfold Obligations.TcountCountsTheValidEntries
  exact fun s h => State.tcount_eq_countP h

/-- Settles O26: `State.built` is the next state, and it reads nothing of the old table. -/
theorem buildTableWritesOnlyTheTable : Obligations.BuildTableWritesOnlyTheTable := by
  unfold Obligations.BuildTableWritesOnlyTheTable
  intro s hd hh
  have hok := dimsOk_of_dims hd
  refine ⟨s.built, exec_buildTable_ok s hok hh, ⟨rfl, rfl⟩, rfl, s.read_tmem_built_zero,
    fun a ha => State.read_tmem_built_of_le ha, fun old => ?_⟩
  exact Gives.of_eq_next (exec_buildTable_ok { s with tmem := old } hok hh)

/-- Settles O28: an address is valid iff it is a packed syndrome, and packed syndromes are below `2^r`; the table is then
full, so its length is `2^r`. -/
theorem builtTableIsComplete : Obligations.BuiltTableIsComplete := by
  unfold Obligations.BuiltTableIsComplete
  intro s hd hh
  have hok := dimsOk_of_dims hd
  refine ⟨s.built, exec_buildTable_ok s hok hh, s.read_tmem_built_zero, fun honto => ⟨fun a => ?_, ?_⟩⟩
  · rw [s.isSome_read_tmem_built]
    refine ⟨?_, honto a⟩
    rintro ⟨v, -, rfl⟩
    exact (synPacked_lt s.matH v).trans_eq (congrArg (2 ^ ·) s.length_matH)
  · obtain ⟨-, -, hdepth⟩ := State.dims_fit hok
    have hlen := State.length_tmem_built honto
    exact (State.toNat_tcount (s := s.built) (hlen.trans_le hdepth)).trans hlen

end

section
/-! DECODE as the pass of R136: the search from position `i` on goes on with the vector and the weight that `passAt` gives,
as long as no lookup misses. -/

namespace Sys2Proof.Claims
open Sys2Proof.Machine

variable {s : State}

theorem weightOf_of_read {v : Vec} {w : BitVec 6} (h : s.tmem.read (synPacked s.matH v) = some w) :
    weightOf s v = w.toNat := by simp [weightOf, h]

/-- A table weight has six bits (R40). -/
theorem weightOf_lt (s : State) (v : Vec) : weightOf s v < 64 := by
  rw [weightOf]
  cases s.tmem.read (synPacked s.matH v) with
  | none => decide
  | some w => exact w.isLt

/-- A flip is kept iff it lowers the weight; at weight 0 nothing is lower. -/
theorem tryFlip_eq (s : State) (c : Vec × Nat) (i : Nat) :
    tryFlip s c i =
      if weightOf s (flipAt c.1 i) < c.2 then (flipAt c.1 i, weightOf s (flipAt c.1 i)) else c := by
  rw [tryFlip]
  split
  next h0 => rw [if_neg (by omega)]
  next => rfl

theorem passAt_succ (s : State) (i : Nat) : passAt s (i + 1) = tryFlip s (passAt s i) i := by
  rw [passAt, List.range_succ, List.foldl_append]
  rfl

/-- Through the whole pass the vector has the code length and the weight six bits. -/
theorem passAt_bounds (s : State) (i : Nat) : (passAt s i).1.length = s.nVal ∧ (passAt s i).2 < 64 := by
  induction i with
  | zero => exact ⟨length_vec _ _, weightOf_lt s _⟩
  | succ i ih =>
    obtain ⟨hlen, hlt⟩ := ih
    rw [passAt_succ, tryFlip_eq]
    split
    · exact ⟨(length_flipAt _ _).trans hlen, weightOf_lt s _⟩
    · exact ⟨hlen, hlt⟩

/-- The search over the positions `l` from a vector and its weight on, weight 0 ending it (R136 steps 4 and 5). -/
def searchFrom (s : State) (l : List Nat) (c : Vec × Nat) : Except Nat (Vec × BitVec 6) :=
  if c.2 = 0 then .ok (c.1, 0) else searchFlips s.matH s.tmem l c.1 (BitVec.ofNat 6 c.2)

/-- DECODE's search is the search from the received vector on, when that has an entry (R136 step 4). -/
theorem decodeSearch_eq_searchFrom {v : Vec} (h : (s.tmem.read (synPacked s.matH v)).isSome) :
    decodeSearch s.nVal s.matH s.tmem v = searchFrom s (List.range s.nVal) (v, weightOf s v) := by
  obtain ⟨w, hw⟩ := Option.isSome_iff_exists.1 h
  rw [decodeSearch, lookupWeight_eq_ok.2 hw, searchFrom, weightOf_of_read hw, BitVec.ofNat_toNat, BitVec.setWidth_eq]
  show (if w = 0 then _ else _) = (if w.toNat = 0 then _ else _)
  by_cases h0 : w = 0
  · rw [if_pos h0, if_pos (by rw [h0]; rfl), h0]
  · have hne : w.toNat ≠ 0 := fun h => h0 (BitVec.eq_of_toNat_eq h)
    rw [if_neg h0, if_neg hne]

/-- When every position has been tried, the search answers where the pass stands. -/
theorem searchFrom_nil (c : Vec × Nat) : searchFrom s [] c = .ok (c.1, BitVec.ofNat 6 c.2) := by
  rw [searchFrom]
  split
  next h0 => exact h0 ▸ rfl
  next => rfl

/-- A lookup that hits takes the search one position on, as the pass goes. -/
theorem searchFrom_cons_hit {c : Vec × Nat} {i : Nat} {rest : List Nat} (hc : c.2 < 64)
    (hhit : c.2 ≠ 0 → (s.tmem.read (synPacked s.matH (flipAt c.1 i))).isSome) :
    searchFrom s (i :: rest) c = searchFrom s rest (tryFlip s c i) := by
  by_cases h0 : c.2 = 0
  · rw [tryFlip, if_pos h0, searchFrom, searchFrom, if_pos h0, if_pos h0]
  · obtain ⟨w, hw⟩ := Option.isSome_iff_exists.1 (hhit h0)
    have hlt : w < BitVec.ofNat 6 c.2 ↔ w.toNat < c.2 := by
      rw [BitVec.lt_def, BitVec.toNat_ofNat, Nat.mod_eq_of_lt hc]
    rw [tryFlip_eq, weightOf_of_read hw, searchFrom, if_neg h0, searchFlips, lookupWeight_eq_ok.2 hw]
    show (if w = 0 then _ else if w < BitVec.ofNat 6 c.2 then _ else _) = _
    by_cases hw0 : w = 0
    · subst hw0
      have hpos : (0 : BitVec 6).toNat < c.2 := Nat.pos_of_ne_zero h0
      rw [if_pos rfl, if_pos hpos]
      rfl
    · rw [if_neg hw0]
      by_cases hkeep : w.toNat < c.2
      · have hne : w.toNat ≠ 0 := fun h => hw0 (BitVec.eq_of_toNat_eq h)
        rw [if_pos (hlt.2 hkeep), if_pos hkeep, searchFrom, if_neg hne, BitVec.ofNat_toNat, BitVec.setWidth_eq]
      · rw [if_neg (mt hlt.1 hkeep), if_neg hkeep, searchFrom, if_neg h0]

/-- A lookup that misses ends the search with its address (R139). -/
theorem searchFrom_cons_miss {c : Vec × Nat} {i : Nat} {rest : List Nat} (h0 : c.2 ≠ 0)
    (hmiss : s.tmem.read (synPacked s.matH (flipAt c.1 i)) = none) :
    searchFrom s (i :: rest) c = .error (synPacked s.matH (flipAt c.1 i)) := by
  rw [searchFrom, if_neg h0, searchFlips, lookupWeight, hmiss]

/-- While no lookup before position `i` misses, the search stands at `i` where the pass does. -/
theorem decodeSearch_eq_searchFrom_passAt {i : Nat} (hhit : LookupsHit s i) (hi : i ≤ s.nVal) :
    decodeSearch s.nVal s.matH s.tmem (vec s.nVal s.va.toNat) =
      searchFrom s (List.range' i (s.nVal - i)) (passAt s i) := by
  obtain ⟨hfirst, hflips⟩ := hhit
  induction i with
  | zero =>
    refine (decodeSearch_eq_searchFrom hfirst).trans ?_
    rw [List.range_eq_range']
    rfl
  | succ i ih =>
    have hrange : s.nVal - i = s.nVal - (i + 1) + 1 := by omega
    rw [ih (by omega) fun j hj => hflips j (by omega), hrange, List.range'_succ,
      searchFrom_cons_hit (passAt_bounds s i).2 (hflips i (by omega)), passAt_succ]

/-- Where no lookup of the pass misses, the search answers what the pass leaves. -/
theorem decodeSearch_eq_passAt (hhit : LookupsHit s s.nVal) :
    decodeSearch s.nVal s.matH s.tmem (vec s.nVal s.va.toNat) =
      .ok ((passAt s s.nVal).1, BitVec.ofNat 6 (passAt s s.nVal).2) := by
  rw [decodeSearch_eq_searchFrom_passAt hhit le_rfl, Nat.sub_self]
  exact searchFrom_nil _

/-- If every vector of the code length has an entry, no lookup misses. -/
theorem lookupsHit_of_forall (h : ∀ v : Vec, v.length = s.nVal → (s.tmem.read (synPacked s.matH v)).isSome) (i : Nat) :
    LookupsHit s i :=
  ⟨h _ (length_vec _ _), fun j _ _ => h _ ((length_flipAt _ _).trans (passAt_bounds s j).1)⟩

/-- A vector is the list of its elements. -/
theorem map_getD_range (v : Vec) : ((List.range v.length).map fun j => v.getD j false) = v := by
  refine List.ext_getElem (by simp) fun j hj hv => ?_
  rw [List.getElem_map, List.getElem_range, List.getD_eq_getElem _ _ hv]

/-- `ERRINFO` of an InternalInvariantError as a number: the packed syndrome (R27, R179). -/
theorem layout_internalInvariant {a : Nat} (ha : a < 2 ^ 31) :
    (CmdError.internalInvariant a).layout = BitVec.ofNat 32 a := by
  apply BitVec.eq_of_toNat_eq
  have ha32 : a < 2 ^ 32 := by omega
  show ((BitVec.ofNat 31 a).setWidth 32).toNat = _
  rw [BitVec.toNat_setWidth, BitVec.toNat_ofNat, BitVec.toNat_ofNat, Nat.mod_eq_of_lt ha]

/-- With legal dimensions a packed syndrome fits `ERRINFO` (R15, R27). -/
theorem synPacked_matH_lt (hd : s.dimsOk = true) (v : Vec) : synPacked s.matH v < 2 ^ 31 := by
  have hlt := synPacked_lt s.matH v
  obtain ⟨-, -, hdepth⟩ := State.dims_fit hd
  have hpow : s.tDepth ≤ 2 ^ 31 := Nat.pow_le_pow_right (by decide) (by omega)
  rw [s.length_matH] at hlt
  omega

/-- A search that misses makes DECODE raise with the address it looked up (R139). -/
theorem gives_decode_of_miss (hd : s.dimsOk = true) (hh : s.hvalid = true) (hl : s.lenA = s.n) {v : Vec}
    (hs : decodeSearch s.nVal s.matH s.tmem (vec s.nVal s.va.toNat) = .error (synPacked s.matH v)) :
    Gives (exec .decode s) (raised s .internalInvariantError (BitVec.ofNat 32 (synPacked s.matH v))) := by
  rw [exec_decode_miss hd hh hl hs, ← layout_internalInvariant (synPacked_matH_lt hd v)]
  exact ⟨s.rdata, s.draws + 1, rfl⟩

/-- A DECODE that has not raised InternalInvariantError has found a vector (R139). -/
theorem decoded_of_exec {t : State} (hd : s.dimsOk = true) (hh : s.hvalid = true) (hl : s.lenA = s.n)
    (h : exec .decode s = .next t) (herr : t.status.err ≠ .internalInvariantError) :
    ∃ c, decodeSearch s.nVal s.matH s.tmem (vec s.nVal s.va.toNat) = .ok c ∧ t = s.decoded c := by
  cases hs : decodeSearch s.nVal s.matH s.tmem (vec s.nVal s.va.toNat) with
  | ok c =>
    rw [exec_decode_ok hd hh hl hs] at h
    injection h with h
    exact ⟨c, rfl, h.symm⟩
  | error a =>
    rw [exec_decode_miss hd hh hl hs] at h
    injection h with h
    exact absurd (by rw [← h]; rfl) herr

/-- The vector in `VR`, read at the code length, is the one the search found, and its entry holds `RES` (R136, R138). -/
theorem read_vr_decoded (hd : s.dimsOk = true) {c : Vec × BitVec 6}
    (hs : decodeSearch s.nVal s.matH s.tmem (vec s.nVal s.va.toNat) = .ok c) :
    vec s.nVal (s.decoded c).vr.toNat = c.1 ∧ s.tmem.read (synPacked s.matH c.1) = some c.2 := by
  obtain ⟨-, -, hlen, hread, -⟩ := improves_of_decodeSearch hs
  have hn : c.1.length = s.nVal := hlen.trans (length_vec _ _)
  refine ⟨?_, hread⟩
  rw [← hn]
  exact vec_packWord (hn ▸ s.nVal_le hd)

/-- DECODE right after DECODE, on an H that has been written, draws again and changes nothing else: it searches the same H
and table for the same vector (R142, R179). -/
theorem exec_decode_again {t : State} (hd : s.dimsOk = true) (hh : s.hvalid = true) (hl : s.lenA = s.n)
    (hw : HWritten s) (h : exec .decode s = .next t) : exec .decode t = .next { t with draws := t.draws + 1 } := by
  have hsearch : ∀ u : State, u.n = s.n → u.k = s.k → u.hmem = s.hmem → u.tmem = s.tmem → u.va = s.va →
      decodeSearch u.nVal u.matH u.tmem (vec u.nVal u.va.toNat) =
        decodeSearch s.nVal s.matH s.tmem (vec s.nVal s.va.toNat) := by
    intro u hn hk hhmem htmem hva
    rw [matH_eq_of_hWritten hw hn hk hhmem, htmem, hva, State.nVal, hn, State.nVal]
  cases hs : decodeSearch s.nVal s.matH s.tmem (vec s.nVal s.va.toNat) with
  | ok c =>
    rw [exec_decode_ok hd hh hl hs] at h
    injection h with h
    subst h
    exact exec_decode_ok (s := s.decoded c) hd hh hl ((hsearch (s.decoded c) rfl rfl rfl rfl rfl).trans hs)
  | error a =>
    rw [exec_decode_miss hd hh hl hs] at h
    injection h with h
    subst h
    exact exec_decode_miss (s := s.countDraw.raise (.internalInvariant a)) hd hh hl
      ((hsearch (s.countDraw.raise _) rfl rfl rfl rfl rfl).trans hs)

end Sys2Proof.Claims
end

section
/-! The obligations about DECODE's pass and its misses (R136, R138 to R140, R179). -/

open Sys2Proof Sys2Proof.Machine Sys2Proof.Claims

/-- Settles O17: the search stands where the pass does when it misses. -/
theorem lookupMissIsAnInternalError : Obligations.LookupMissIsAnInternalError := by
  unfold Obligations.LookupMissIsAnInternalError
  intro s hd hh hl
  have hok := dimsOk_of_dims hd
  constructor
  · intro hmiss
    refine gives_decode_of_miss hok hh hl ?_
    show decodeSearch _ _ _ (vec s.n.toNat s.va.toNat) = _
    rw [decodeSearch, lookupWeight, hmiss]
  · intro i hi hhit h0 hmiss
    refine gives_decode_of_miss hok hh hl ?_
    have hrange : s.nVal - i = s.nVal - (i + 1) + 1 := (Nat.sub_add_cancel (Nat.sub_pos_of_lt hi)).symm
    rw [decodeSearch_eq_searchFrom_passAt hhit hi.le, hrange, List.range'_succ, searchFrom_cons_miss h0 hmiss]

/-- Settles O30: the search answers what the pass leaves, and a vector is written as its binary digits. -/
theorem decodeIsOneGreedyPass : Obligations.DecodeIsOneGreedyPass := by
  unfold Obligations.DecodeIsOneGreedyPass
  intro s hd hh hl hhit
  obtain ⟨hlen, hlt⟩ := passAt_bounds s s.nVal
  refine ⟨_, exec_decode_ok (dimsOk_of_dims hd) hh hl (decodeSearch_eq_passAt hhit), ⟨rfl, rfl⟩, rfl, ?_, ?_⟩
  · rw [← pack_map_range]
    have hmap := map_getD_range (passAt s s.nVal).1
    rw [hlen] at hmap
    exact congrArg packWord hmap.symm
  · exact (BitVec.toNat_ofNat _ _).trans (Nat.mod_eq_of_lt hlt)

/-- Settles O31: a flip is kept only at a lower weight, with the lookup's answer as the new weight. -/
theorem decodeReportsTheRemainingWeight : Obligations.DecodeReportsTheRemainingWeight := by
  unfold Obligations.DecodeReportsTheRemainingWeight
  intro s t hd hh hl h herr
  have hok := dimsOk_of_dims hd
  obtain ⟨c, hs, rfl⟩ := decoded_of_exec hok hh hl h herr
  obtain ⟨hvr, hread⟩ := read_vr_decoded hok hs
  obtain ⟨w, hw, -, -, hle⟩ := improves_of_decodeSearch hs
  refine ⟨⟨rfl, rfl⟩, rfl, ?_, w, hw, hle⟩
  show s.tmem.read (synPacked s.matH (vec s.nVal (s.decoded c).vr.toNat)) = some c.2
  rw [hvr, hread]

/-- Settles O29: the rows of H read alike in both commands, and every vector's syndrome has an entry after BUILD_TABLE. -/
theorem decodeAfterBuildNeverMisses : Obligations.DecodeAfterBuildNeverMisses := by
  unfold Obligations.DecodeAfterBuildNeverMisses
  intro s x hd hh hw
  have hok := dimsOk_of_dims hd
  refine ⟨s.built, exec_buildTable_ok s hok hh, ?_⟩
  have hH : { s.built with va := x, lenA := s.n }.matH = s.matH := matH_eq_of_hWritten hw rfl rfl rfl
  have hhit : LookupsHit { s.built with va := x, lenA := s.n } s.nVal := by
    refine lookupsHit_of_forall (fun v hv => ?_) _
    rw [hH]
    exact (s.isSome_read_tmem_built _).2 ⟨v, hv, rfl⟩
  exact ⟨_, exec_decode_ok (s := { s.built with va := x, lenA := s.n }) hok hh rfl (decodeSearch_eq_passAt hhit), rfl, rfl⟩

/-- Settles O32: weight 0 ends the search at once, for a vector of zero syndrome and for a result with `RES` 0. -/
theorem decodeReturnsCodewordsUnchanged : Obligations.DecodeReturnsCodewordsUnchanged := by
  unfold Obligations.DecodeReturnsCodewordsUnchanged
  intro s hd hh hl
  have hok := dimsOk_of_dims hd
  constructor
  · intro hsyn h0
    have hread : s.tmem.read (synPacked s.matH (vec s.nVal s.va.toNat)) = some 0 := by
      rw [← h0]
      exact congrArg _ hsyn
    refine ⟨_, exec_decode_ok hok hh hl (decodeSearch_of_weight_zero hread), ⟨rfl, rfl⟩, ?_, rfl, rfl⟩
    have hlt : s.va.toNat % 2 ^ s.nVal < 2 ^ 32 := (Nat.mod_le _ _).trans_lt s.va.isLt
    show (packWord (vec s.nVal s.va.toNat)).toNat = s.va.toNat % 2 ^ s.nVal
    rw [packWord, pack_vec, BitVec.toNat_ofNat, Nat.mod_eq_of_lt hlt]
  · intro t hw h herr hres
    obtain ⟨c, hs, rfl⟩ := decoded_of_exec hok hh hl h herr
    obtain ⟨hvr, hread⟩ := read_vr_decoded hok hs
    have hH : { s.decoded c with va := (s.decoded c).vr }.matH = s.matH := matH_eq_of_hWritten hw rfl rfl rfl
    have hsearch : decodeSearch s.nVal { s.decoded c with va := (s.decoded c).vr }.matH s.tmem
        (vec s.nVal (s.decoded c).vr.toNat) = .ok (c.1, 0) := by
      rw [hH, hvr]
      exact decodeSearch_of_weight_zero (hread.trans (congrArg some hres))
    exact ⟨_, exec_decode_ok (s := { s.decoded c with va := (s.decoded c).vr }) hok hh hl hsearch, ⟨rfl, rfl⟩, rfl, rfl⟩

/-- Settles O34: a second DECODE searches the same H, table and vector, so it does what the first did. -/
theorem repeatedDecodeRaisesAgain : Obligations.RepeatedDecodeRaisesAgain := by
  unfold Obligations.RepeatedDecodeRaisesAgain
  intro s a hd hh hl hw h
  obtain ⟨p, d, h⟩ := h
  refine ⟨_, h, p, d + 1, ?_⟩
  exact exec_decode_again (dimsOk_of_dims hd) hh hl hw h

end

section
/-! The leader of a coset: of the vectors with one syndrome, the one of least weight, and among those the leftmost, with the
largest packed value (R141). A flip at the leader's first 1 leads to a coset led by the rest of the leader; a flip before it
leads to a coset that is not lighter. -/

namespace Sys2Proof.Machine

variable {H : List Vec} {u v : Vec} {i : Nat}

theorem getD_flipAt_self (hi : i < v.length) : (flipAt v i).getD i false = !v.getD i false := by
  simp [flipAt, List.getD_eq_getElem?_getD, hi]

theorem getD_flipAt_of_ne {j : Nat} (h : i ≠ j) : (flipAt v i).getD j false = v.getD j false := by
  simp [flipAt, List.getD_eq_getElem?_getD, List.getElem?_modify_ne _ _ h]

/-- A flip of a 0 adds 1 to the weight (R14). -/
theorem wt_flipAt_of_false (hi : i < v.length) (h : v.getD i false = false) : wt (flipAt v i) = wt v + 1 := by
  induction v generalizing i with
  | nil => exact absurd hi (Nat.not_lt_zero i)
  | cons b v ih =>
    cases i with
    | zero =>
      obtain rfl : b = false := h
      simp [flipAt, wt]
    | succ i =>
      have htail : wt (flipAt v i) = wt v + 1 := ih (by simpa using hi) h
      have hflip : flipAt (b :: v) (i + 1) = b :: flipAt v i := rfl
      rw [hflip, wt, wt, List.count_cons, List.count_cons, ← wt, ← wt, htail]
      omega

/-- A flip of a 0 adds its digit to the packed value (R11, R14). -/
theorem pack_flipAt_of_false (hi : i < v.length) (h : v.getD i false = false) :
    pack (flipAt v i) = pack v + 2 ^ (v.length - 1 - i) := by
  induction v generalizing i with
  | nil => exact absurd hi (Nat.not_lt_zero i)
  | cons b v ih =>
    cases i with
    | zero =>
      obtain rfl : b = false := h
      have hflip : flipAt (false :: v) 0 = true :: v := rfl
      rw [hflip, pack_cons, pack_cons]
      simp [Nat.add_comm]
    | succ i =>
      have htail := ih (by simpa using hi) h
      have hflip : flipAt (b :: v) (i + 1) = b :: flipAt v i := rfl
      have hexp : (b :: v).length - 1 - (i + 1) = v.length - 1 - i := by
        rw [List.length_cons]
        omega
      rw [hflip, pack_cons, pack_cons, htail, length_flipAt, hexp, Nat.add_assoc]

/-- A flip of a 1 undoes the flip of the 0 it leaves. -/
theorem flipAt_of_true (hi : i < v.length) (h : v.getD i false = true) :
    wt v = wt (flipAt v i) + 1 ∧ pack v = pack (flipAt v i) + 2 ^ (v.length - 1 - i) := by
  have hbit : (flipAt v i).getD i false = false := by rw [getD_flipAt_self hi, h, Bool.not_true]
  have hi' : i < (flipAt v i).length := (length_flipAt v i).symm ▸ hi
  have hwt := wt_flipAt_of_false hi' hbit
  have hpack := pack_flipAt_of_false hi' hbit
  rw [flipAt_flipAt] at hwt hpack
  rw [length_flipAt] at hpack
  exact ⟨hwt, hpack⟩

/-- A vector that begins with zeros has a small packed value (R11). -/
theorem pack_lt_of_leading_zeros (h : ∀ j, j < i → v.getD j false = false) :
    pack v < 2 ^ (v.length - i) := by
  have hzero : pack (v.take i) = 0 := by
    refine pack_eq_zero fun b hb => ?_
    obtain ⟨j, hj, rfl⟩ := List.mem_iff_getElem.1 hb
    obtain ⟨hji, hjv⟩ : j < i ∧ j < v.length := by simpa using hj
    simpa [List.getD_eq_getElem?_getD, hjv] using h j hji
  rw [← List.take_append_drop i v, pack_append, hzero, Nat.zero_mul, Nat.zero_add, List.take_append_drop,
    ← List.length_drop]
  exact pack_lt _

theorem pack_injective (hlen : u.length = v.length) (h : pack u = pack v) : u = v := by
  rw [← vec_pack u, ← vec_pack v, h, hlen]

/-- A flip takes vectors of one syndrome to vectors of one syndrome (R15). -/
theorem synPacked_flipAt_congr (hH : ∀ h ∈ H, h.length = u.length) (hlen : v.length = u.length)
    (h : synPacked H v = synPacked H u) (hi : i < u.length) : synPacked H (flipAt v i) = synPacked H (flipAt u i) := by
  have hsyn : syn H v = syn H u := pack_injective (by rw [length_syn, length_syn]) h
  rw [synPacked, synPacked, syn_flipAt (hlen ▸ hH) (hlen.symm ▸ hi), syn_flipAt hH hi, hsyn]

/-- `u` leads its coset: no vector of its length and syndrome is lighter, and none as light has a larger packed value. -/
def Leader (H : List Vec) (u : Vec) : Prop :=
  ∀ v : Vec, v.length = u.length → synPacked H v = synPacked H u → wt u ≤ wt v ∧ (wt v = wt u → pack v ≤ pack u)

/-- Every coset has a leader. -/
theorem exists_leader (H : List Vec) (v : Vec) :
    ∃ u, u.length = v.length ∧ synPacked H u = synPacked H v ∧ Leader H u := by
  obtain ⟨u, ⟨hlen, hsyn⟩, hmin⟩ := exists_minimalFor_of_wellFoundedLT
    (fun u : Vec => u.length = v.length ∧ synPacked H u = synPacked H v)
    (fun u => toLex (wt u, 2 ^ v.length - pack u)) ⟨v, rfl, rfl⟩
  refine ⟨u, hlen, hsyn, fun x hx hxsyn => ?_⟩
  have hx' : x.length = v.length ∧ synPacked H x = synPacked H v := ⟨hx.trans hlen, hxsyn.trans hsyn⟩
  have hle := (le_total (toLex (wt u, 2 ^ v.length - pack u)) (toLex (wt x, 2 ^ v.length - pack x))).elim id (hmin hx')
  obtain ⟨hwt, hpack⟩ := Prod.Lex.toLex_le_toLex'.1 hle
  have hltu := pack_lt u
  have hltx := pack_lt x
  rw [hlen] at hltu
  rw [hx, hlen] at hltx
  refine ⟨hwt, fun heq => ?_⟩
  have hsub : 2 ^ v.length - pack u ≤ 2 ^ v.length - pack x := hpack heq.symm
  omega

/-- Past a leader's 1, the leader with that element flipped leads its own coset. -/
theorem Leader.flipAt_true (hu : Leader H u) (hH : ∀ h ∈ H, h.length = u.length) (hi : i < u.length)
    (hbit : u.getD i false = true) : Leader H (flipAt u i) := by
  intro v hlen hsyn
  rw [length_flipAt] at hlen
  have hH' : ∀ h ∈ H, h.length = (flipAt u i).length := (length_flipAt u i).symm ▸ hH
  have hback := synPacked_flipAt_congr hH' (hlen.trans (length_flipAt u i).symm) hsyn (by rwa [length_flipAt])
  rw [flipAt_flipAt] at hback
  obtain ⟨hle, hpack⟩ := hu (flipAt v i) ((length_flipAt v i).trans hlen) hback
  obtain ⟨hwtu, hpacku⟩ := flipAt_of_true hi hbit
  cases hv : v.getD i false with
  | true =>
    have hwtv := (flipAt_of_true (hlen.symm ▸ hi) hv).1
    exact ⟨by omega, fun heq => by omega⟩
  | false =>
    have hwtv := wt_flipAt_of_false (hlen.symm ▸ hi) hv
    have hpackv := pack_flipAt_of_false (hlen.symm ▸ hi) hv
    refine ⟨by omega, fun heq => ?_⟩
    have hle := hpack (by omega)
    rw [hpackv, hpacku, hlen] at hle
    exact Nat.le_of_add_le_add_right hle

/-- Up to a leader's first 1, no flip leads to a lighter coset: the flip of its leader would be as light and more to the
left. -/
theorem Leader.wt_le_of_flipAt (hu : Leader H u) (hH : ∀ h ∈ H, h.length = u.length) (hi : i < u.length)
    (hzero : ∀ j, j < i + 1 → u.getD j false = false) (hlen : v.length = u.length)
    (hsyn : synPacked H v = synPacked H (flipAt u i)) : wt u ≤ wt v := by
  have hH' : ∀ h ∈ H, h.length = (flipAt u i).length := (length_flipAt u i).symm ▸ hH
  have hback := synPacked_flipAt_congr hH' (hlen.trans (length_flipAt u i).symm) hsyn (by rwa [length_flipAt])
  rw [flipAt_flipAt] at hback
  obtain ⟨hle, hpack⟩ := hu (flipAt v i) ((length_flipAt v i).trans hlen) hback
  cases hv : v.getD i false with
  | true =>
    have hwtv := (flipAt_of_true (hlen.symm ▸ hi) hv).1
    omega
  | false =>
    have hwtv := wt_flipAt_of_false (hlen.symm ▸ hi) hv
    by_contra hlt
    have hpackle := hpack (by omega)
    have hpacklt := pack_lt_of_leading_zeros hzero
    have hexp : u.length - (i + 1) = u.length - 1 - i := by omega
    rw [pack_flipAt_of_false (hlen.symm ▸ hi) hv, hlen] at hpackle
    rw [hexp] at hpacklt
    omega

/-- The exclusive-or does not see a flip of both vectors at one place (R14). -/
theorem zipWith_xor_flipAt (u v : Vec) (i : Nat) :
    List.zipWith xor (flipAt u i) (flipAt v i) = List.zipWith xor u v := by
  apply List.ext_getElem?
  intro j
  simp only [flipAt, List.getElem?_zipWith, List.getElem?_modify]
  cases u[j]? with
  | none => rfl
  | some a =>
    cases v[j]? with
    | none => simp
    | some b => by_cases hij : i = j <;> simp [hij]

/-- Adding a vector twice takes it away (R14). -/
theorem zipWith_xor_cancel (h : u.length = v.length) : List.zipWith xor (List.zipWith xor u v) u = v := by
  refine List.ext_getElem (by simp [h]) fun j _ _ => ?_
  rw [List.getElem_zipWith, List.getElem_zipWith, Bool.xor_comm, ← Bool.xor_assoc, Bool.xor_self, Bool.false_xor]

theorem zipWith_xor_replicate_false (u : Vec) : List.zipWith xor u (List.replicate u.length false) = u := by
  refine List.ext_getElem (by simp) fun j _ _ => ?_
  rw [List.getElem_zipWith, List.getElem_replicate, Bool.xor_false]

theorem eq_replicate_false (h : ∀ j, j < u.length → u.getD j false = false) : u = List.replicate u.length false := by
  refine List.ext_getElem (by simp) fun j hj _ => ?_
  rw [List.getElem_replicate, ← h j hj, List.getD_eq_getElem _ _ hj]

/-- Every row of H, as a command reads it, has the code length (R37). -/
theorem State.length_of_mem_matH {s : State} {h : Vec} (hh : h ∈ s.matH) : h.length = s.nVal := by
  obtain ⟨i, -, rfl⟩ := List.mem_map.1 hh
  exact length_vec _ _

end Sys2Proof.Machine

namespace Sys2Proof.Claims
open Sys2Proof.Machine

variable {s : State}

/-- An exact table holds at each syndrome the weight of the coset's leader (R124). -/
theorem ExactTable.read_leader (hx : ExactTable s) (hd : s.dimsOk = true) {u : Vec} (hlen : u.length = s.nVal)
    (hu : Leader s.matH u) : s.tmem.read (synPacked s.matH u) = some (BitVec.ofNat 6 (wt u)) := by
  have hwt : wt u < 2 ^ 6 := ((wt_le_length u).trans (hlen ▸ s.nVal_le hd)).trans_lt (by decide)
  refine (hx _ _ ((synPacked_lt s.matH u).trans_eq (congrArg (2 ^ ·) s.length_matH))).2 ⟨u, hlen, rfl, ?_, ?_⟩
  · rw [BitVec.toNat_ofNat, Nat.mod_eq_of_lt hwt]
  · exact fun v hv hsyn => (hu v (hv.trans hlen.symm) hsyn).1

theorem ExactTable.weightOf_eq (hx : ExactTable s) (hd : s.dimsOk = true) {u v : Vec} (hlen : u.length = s.nVal)
    (hu : Leader s.matH u) (hsyn : synPacked s.matH u = synPacked s.matH v) : weightOf s v = wt u := by
  have hwt : wt u < 2 ^ 6 := ((wt_le_length u).trans (hlen ▸ s.nVal_le hd)).trans_lt (by decide)
  rw [weightOf_of_read (hsyn ▸ hx.read_leader hd hlen hu), BitVec.toNat_ofNat, Nat.mod_eq_of_lt hwt]

/-- `u` leads the coset of the pass's vector `c.1`, has no 1 before position `i`, and `c.2` is its weight: what is left to
flip from position `i` on. -/
structure LedBy (s : State) (i : Nat) (c : Vec × Nat) (u : Vec) : Prop where
  length : c.1.length = s.nVal
  lengthLeader : u.length = s.nVal
  leader : Leader s.matH u
  syndrome : synPacked s.matH u = synPacked s.matH c.1
  weight : c.2 = wt u
  zeros : ∀ j, j < i → u.getD j false = false

/-- At each position the pass flips exactly the element where the leader has a 1, and the leader with it. -/
theorem LedBy.step (hx : ExactTable s) (hd : s.dimsOk = true) {i : Nat} (hi : i < s.nVal) {c : Vec × Nat} {u : Vec}
    (h : LedBy s i c u) :
    ∃ u', LedBy s (i + 1) (tryFlip s c i) u' ∧
      List.zipWith xor (tryFlip s c i).1 u' = List.zipWith xor c.1 u := by
  obtain ⟨hlen, hlenu, hu, hsyn, hwt, hzero⟩ := h
  have hH : ∀ r ∈ s.matH, r.length = u.length := fun r hr => (State.length_of_mem_matH hr).trans hlenu.symm
  have hiu : i < u.length := hlenu.symm ▸ hi
  have hflip : synPacked s.matH (flipAt c.1 i) = synPacked s.matH (flipAt u i) :=
    synPacked_flipAt_congr hH (hlen.trans hlenu.symm) hsyn.symm hiu
  rw [tryFlip_eq]
  cases hbit : u.getD i false with
  | true =>
    have hu' := hu.flipAt_true hH hiu hbit
    have hlen' : (flipAt u i).length = s.nVal := (length_flipAt u i).trans hlenu
    have hwt' := (flipAt_of_true hiu hbit).1
    have hweight : weightOf s (flipAt c.1 i) = wt (flipAt u i) := hx.weightOf_eq hd hlen' hu' hflip.symm
    rw [if_pos (by omega)]
    refine ⟨flipAt u i, ⟨(length_flipAt _ _).trans hlen, hlen', hu', hflip.symm, hweight, fun j hj => ?_⟩,
      zipWith_xor_flipAt _ _ _⟩
    rcases Nat.lt_succ_iff_lt_or_eq.1 hj with hj | rfl
    · exact (getD_flipAt_of_ne hj.ne').trans (hzero j hj)
    · rw [getD_flipAt_self hiu, hbit, Bool.not_true]
  | false =>
    have hzero' : ∀ j, j < i + 1 → u.getD j false = false := by
      intro j hj
      rcases Nat.lt_succ_iff_lt_or_eq.1 hj with hj | rfl
      · exact hzero j hj
      · exact hbit
    obtain ⟨v, hlenv, hsynv, hv⟩ := exists_leader s.matH (flipAt u i)
    rw [length_flipAt] at hlenv
    have hle := hu.wt_le_of_flipAt hH hiu hzero' hlenv hsynv
    have hweight := hx.weightOf_eq hd (hlenv.trans hlenu) hv (hsynv.trans hflip.symm)
    rw [if_neg (by omega)]
    exact ⟨u, ⟨hlen, hlenu, hu, hsyn, hwt, hzero'⟩, rfl⟩

/-- With an exact table the pass takes the leader of the received vector's coset off it, from left to right. -/
theorem exists_ledBy_passAt (hx : ExactTable s) (hd : s.dimsOk = true) {u : Vec} (h : LedBy s 0 (passAt s 0) u) {i : Nat}
    (hi : i ≤ s.nVal) :
    ∃ u', LedBy s i (passAt s i) u' ∧ List.zipWith xor (passAt s i).1 u' = List.zipWith xor (passAt s 0).1 u := by
  induction i with
  | zero => exact ⟨u, h, rfl⟩
  | succ i ih =>
    obtain ⟨v, hv, hxor⟩ := ih (by omega)
    obtain ⟨u', hu', hxor'⟩ := hv.step hx hd (by omega)
    rw [passAt_succ]
    exact ⟨u', hu', hxor'.trans hxor⟩

/-- With an exact table the pass ends at weight 0, with the received vector less its coset's leader (R141). -/
theorem passAt_of_exactTable (hx : ExactTable s) (hd : s.dimsOk = true) {u : Vec}
    (hlen : u.length = s.nVal) (hu : Leader s.matH u)
    (hsyn : synPacked s.matH u = synPacked s.matH (vec s.nVal s.va.toNat)) :
    (passAt s s.nVal).2 = 0 ∧ (passAt s s.nVal).1 = List.zipWith xor (vec s.nVal s.va.toNat) u ∧
      synPacked s.matH (passAt s s.nVal).1 = 0 := by
  have hstart : LedBy s 0 (passAt s 0) u :=
    ⟨length_vec _ _, hlen, hu, hsyn, hx.weightOf_eq hd hlen hu hsyn, fun j hj => absurd hj (Nat.not_lt_zero j)⟩
  obtain ⟨u', ⟨hlenc, hlen', -, hsyn', hwt', hzero⟩, hxor⟩ := exists_ledBy_passAt hx hd hstart le_rfl
  have hnone : u' = List.replicate s.nVal false := hlen' ▸ eq_replicate_false (hlen'.symm ▸ hzero)
  rw [hnone] at hsyn' hwt' hxor
  refine ⟨by simpa [wt, List.count_replicate] using hwt', ?_, ?_⟩
  · have hsame := zipWith_xor_replicate_false (passAt s s.nVal).1
    rw [hlenc, hxor] at hsame
    exact hsame.symm
  · rw [← hsyn', synPacked_replicate_false]

end Sys2Proof.Claims
end

section
/-! The obligation about the exact table (R141). -/

open Sys2Proof Sys2Proof.Machine Sys2Proof.Claims

/-- Settles O33: every coset has a leader, so no lookup misses, and the pass takes the leader of the received vector's coset
off it. -/
theorem exactTableDecodesByALeader : Obligations.ExactTableDecodesByALeader := by
  unfold Obligations.ExactTableDecodesByALeader
  intro s hd hh hl hx
  have hok := dimsOk_of_dims hd
  have hhit : LookupsHit s s.nVal := by
    refine lookupsHit_of_forall (fun v hv => ?_) _
    obtain ⟨u, hlen, hsyn, hu⟩ := exists_leader s.matH v
    rw [← hsyn, hx.read_leader hok (hlen.trans hv) hu]
    rfl
  obtain ⟨u, hlen, hsyn, hu⟩ := exists_leader s.matH (vec s.nVal s.va.toNat)
  rw [length_vec] at hlen
  obtain ⟨hweight, hvec, hzero⟩ := passAt_of_exactTable hx hok hlen hu hsyn
  have hsearch := decodeSearch_eq_passAt hhit
  have hvr := (read_vr_decoded hok hsearch).1
  refine ⟨_, exec_decode_ok hok hh hl hsearch, ⟨rfl, rfl⟩, congrArg (BitVec.ofNat 6) hweight, ?_⟩
  have he : List.zipWith xor (passAt s s.nVal).1 (vec s.nVal s.va.toNat) = u := by
    rw [hvec]
    exact zipWith_xor_cancel ((length_vec _ _).trans hlen.symm)
  have hgoal : synPacked s.matH (passAt s s.nVal).1 = 0 ∧
      synPacked s.matH u = synPacked s.matH (vec s.nVal s.va.toNat) ∧
      s.tmem.read (synPacked s.matH (vec s.nVal s.va.toNat)) = some (BitVec.ofNat 6 (wt u)) ∧
      ∀ v : Vec, v.length = s.nVal → synPacked s.matH v = synPacked s.matH (vec s.nVal s.va.toNat) →
        wt u ≤ wt v ∧ (wt v = wt u → pack v ≤ pack u) :=
    ⟨hzero, hsyn, hsyn ▸ hx.read_leader hok hlen hu, fun v hv hv' => hu v (hv.trans hlen.symm) (hv'.trans hsyn.symm)⟩
  rw [← he, ← hvr] at hgoal
  exact hgoal

end

section
/-! The words of the register interface as numbers, and what a host access of an idle block does at every address (R22 to
R42, R61, R63, R64, R84, R87). -/

namespace Sys2Proof

/-- The opcodes of the seven commands (R82). -/
theorem opcodeOf_range (i : Instr) : 0 < (opcodeOf i).toNat ∧ (opcodeOf i).toNat < 8 := by cases i <;> decide

/-- A word with `rsv ≠ 0`, `op = 0` or `op ≥ 8` is refused (R84). -/
theorem decode_error_of_fields {w : Word} (h : w.toNat / 16 ≠ 0 ∨ w.toNat % 16 = 0 ∨ 8 ≤ w.toNat % 16) :
    ∃ e, decode w = .error e := by
  cases hd : decode w with
  | error e => exact ⟨e, rfl⟩
  | ok i =>
    obtain ⟨hrsv, hop⟩ := fields_of_decode_eq_ok hd
    have hrange := opcodeOf_range i
    rw [← toNat_rsv_fieldsOf, ← toNat_op_fieldsOf, hrsv, hop] at h
    have hzero : (0 : BitVec 28).toNat = 0 := rfl
    omega

end Sys2Proof

namespace Sys2Proof.Machine

/-- `STATUS` as a number (R25). -/
theorem State.toNat_statusWord (s : State) :
    s.statusWord.toNat = s.busy.toNat + 2 * s.status.done.toNat + 2 ^ 4 * s.status.err.code.toNat +
      2 ^ 8 * s.status.softfb.toNat + 2 ^ 9 * s.status.errsticky.toNat := by
  have hword : ∀ (b d f e : Bool) (c : BitVec 3),
      (flagAt b 0 ||| flagAt d 1 ||| c.setWidth 32 <<< 4 ||| flagAt f 8 ||| flagAt e 9).toNat =
        b.toNat + 2 * d.toNat + 2 ^ 4 * c.toNat + 2 ^ 8 * f.toNat + 2 ^ 9 * e.toNat := by decide
  exact hword _ _ _ _ _

/-- `MVALID` as a number (R30). -/
theorem State.toNat_mvalidWord (s : State) : s.mvalidWord.toNat = s.gvalid.toNat + 2 * s.hvalid.toNat := by
  have hword : ∀ g h : Bool, (flagAt g 0 ||| flagAt h 1).toNat = g.toNat + 2 * h.toNat := by decide
  exact hword _ _

/-- A flag in bit 0 as a number (R26). -/
theorem toNat_flagAt_zero (b : Bool) : (flagAt b 0).toNat = b.toNat := by cases b <;> rfl

/-- The two low bits of a word as a number. -/
theorem toNat_getLsbD_zero_add_one (v : Word) : (v.getLsbD 0).toNat + 2 * (v.getLsbD 1).toNat = v.toNat % 4 := by
  rw [← BitVec.testBit_toNat, ← BitVec.testBit_toNat, Nat.toNat_testBit, Nat.toNat_testBit]
  omega

/-- The lowest bit of a word as a number. -/
theorem toNat_getLsbD_zero (v : Word) : (v.getLsbD 0).toNat = v.toNat % 2 := by
  rw [← BitVec.testBit_toNat, Nat.toNat_testBit, pow_zero, Nat.div_one]

/-- The registers that ignore every write (R61 and the access column of 10_state.md section 2). -/
def Reg.readOnly : Reg → Bool
  | .id | .param | .errinfo | .vr | .lenR | .res | .pcnt | .tcount | .reserved | .plist _ => true
  | _ => false

theorem State.writeReg_readOnly (s : State) (v : Word) {r : Reg} (h : r.readOnly = true) : s.writeReg v r = s := by
  cases r with
  | id => rfl
  | param => rfl
  | errinfo => rfl
  | vr => rfl
  | lenR => rfl
  | res => rfl
  | pcnt => rfl
  | tcount => rfl
  | reserved => rfl
  | plist => rfl
  | _ => cases h

variable (s : State) (v : Word) {i : Fin 32}

/-- A write to an implemented GMEM row stores it (R36). -/
theorem State.writeReg_gmem (h : i ≤ s.lastRow) :
    s.writeReg v (.gmem i) = { s with gmem := s.gmem.write i.val v } := by
  simp [State.writeReg, State.implemented, h]

theorem State.writeReg_gmem_absent (h : s.lastRow < i) : s.writeReg v (.gmem i) = s := by
  simp [State.writeReg, State.implemented, h]

theorem State.writeReg_hmem_absent (h : s.lastRow < i) : s.writeReg v (.hmem i) = s := by
  simp [State.writeReg, State.implemented, h]

theorem State.regValue_gmem_absent (h : s.lastRow < i) : s.regValue (.gmem i) = 0 := by
  simp [State.regValue, State.implemented, h]

theorem State.regValue_hmem_absent (h : s.lastRow < i) : s.regValue (.hmem i) = 0 := by
  simp [State.regValue, State.implemented, h]

/-- An implemented row that has been written reads as it was written (R36). -/
theorem State.regValue_gmem_written {w : Word} (h : i ≤ s.lastRow) (hw : s.gmem.read i.val = some w) :
    s.regValue (.gmem i) = w := by
  simp [State.regValue, State.implemented, State.gWord, State.rowWord, h, hw]

theorem State.regValue_hmem_written {w : Word} (h : i ≤ s.lastRow) (hw : s.hmem.read i.val = some w) :
    s.regValue (.hmem i) = w := by
  simp [State.regValue, State.implemented, State.hWord, State.rowWord, h, hw]

/-- `PARAM` reads `N_MAX` (R23). -/
theorem State.toNat_param : (s.regValue .param).toNat = s.lastRow.val + 1 := by
  show (BitVec.ofNat 32 (s.lastRow.val + 1)).toNat = _
  rw [BitVec.toNat_ofNat, Nat.mod_eq_of_lt (by omega)]

/-- The `TDATA` word as a number, valid entry or not (R41). -/
theorem State.toNat_tdata :
    (s.regValue .tdata).toNat = ((s.tmem.read s.taddr.toNat).map fun w => 2 ^ 31 + w.toNat).getD 0 := by
  cases h : s.tmem.read s.taddr.toNat with
  | none => rw [s.tdata_of_not_valid h]; rfl
  | some w => rw [s.tdata_toNat_of_valid h]; rfl

end Sys2Proof.Machine

namespace Sys2Proof.Claims
open Sys2Proof.Machine

variable {s : State} {a : BitVec 7} {v : Word} {rest : List Input}

/-- The host's write of a legal word to `CMD` starts the command (R87). -/
theorem HostWrites.step_cmd_legal {i : Instr} (h : HostWrites s 0x02 v rest) (hd : decode v = .ok i) :
    step s = .next ({ s with inputs := rest }.start v) := by
  rw [h.step_eq regAt_cmd, ← State.writeCmd_legal _ hd]
  rfl

/-- The host's write of an illegal word to `CMD` starts and ends a command that raises (R84). -/
theorem HostWrites.step_cmd_illegal {e : DecodeError} (h : HostWrites s 0x02 v rest) (hd : decode v = .error e) :
    step s = .next (({ s with inputs := rest }.start v).raise (.illegalCommand v)) := by
  rw [h.step_eq regAt_cmd, ← State.writeCmd_illegal _ hd]
  rfl

/-- A host write that the register ignores uses up the input and nothing else (R61). -/
theorem HostWrites.gives_unchanged (h : HostWrites s a v rest)
    (hr : { s with inputs := rest }.writeReg v (regAt a) = { s with inputs := rest }) :
    Gives (step s) { s with inputs := rest } := by
  rw [h.step_eq rfl, hr]
  exact Gives.of_eq_next rfl

/-- A host read of an idle block, with the value of the register at the address (R63, R65). -/
theorem step_read_value (hseq : s.seq = .idle) (hin : s.inputs = .read a :: rest) :
    step s = .next { s with inputs := rest, rdata := s.regValue (regAt a), draws := s.draws + 1 } :=
  step_read_idle hseq hin rfl

/-- An address whose number is a register's names that register (R61). -/
theorem regAt_of_toNat_eq {r : Reg} {x : Nat} (ha : a.toNat = x) (hx : x < 128) (hr : r.addr = BitVec.ofNat 7 x) :
    regAt a = r := by
  have haddr : a = r.addr := by
    rw [hr]
    apply BitVec.eq_of_toNat_eq
    rw [ha, BitVec.toNat_ofNat, Nat.mod_eq_of_lt hx]
  rw [haddr, regAt_addr]

/-- The row addresses that are not implemented have no storage (R36, R37, R61). -/
theorem absent_row (h : (0x20 + s.lastRow.val < a.toNat ∧ a.toNat < 0x40) ∨
    (0x40 + s.lastRow.val < a.toNat ∧ a.toNat < 0x60)) :
    ∃ i : Fin 32, s.lastRow < i ∧ (regAt a = .gmem i ∨ regAt a = .hmem i) := by
  rcases h with ⟨hrow, hhigh⟩ | ⟨hrow, hhigh⟩
  · exact ⟨⟨a.toNat - 0x20, by omega⟩, Fin.lt_def.2 (Nat.lt_sub_iff_add_lt'.2 hrow),
      .inl (regAt_gmem (by omega) hhigh)⟩
  · exact ⟨⟨a.toNat - 0x40, by omega⟩, Fin.lt_def.2 (Nat.lt_sub_iff_add_lt'.2 hrow),
      .inr (regAt_hmem (by omega) hhigh)⟩

/-- The read-only addresses below 0x14 name read-only registers (10_state.md section 2). -/
theorem readOnly_regAt : ∀ a : BitVec 7, a.toNat ∈ [0x00, 0x01, 0x05, 0x0D, 0x0E, 0x0F, 0x10, 0x13] →
    (regAt a).readOnly = true := by decide

end Sys2Proof.Claims
end

section
/-! The obligations about host accesses of an idle block (R22 to R42, R61, R63 to R65, R84, R87). -/

open Sys2Proof Sys2Proof.Machine Sys2Proof.Claims

/-- Settles O5: the start is the whole of the step. -/
theorem commandStartClearsTheStatus : Obligations.CommandStartClearsTheStatus := by
  unfold Obligations.CommandStartClearsTheStatus
  intro s v i rest h hd
  rw [h.step_cmd_legal hd]
  exact Gives.of_eq_next rfl

/-- Settles O6: a word whose fields no command has is refused, and its command starts and raises in the one step. -/
theorem illegalWordRaisesAtOnce : Obligations.IllegalWordRaisesAtOnce := by
  unfold Obligations.IllegalWordRaisesAtOnce
  intro s v rest h hfields
  obtain ⟨e, hd⟩ := decode_error_of_fields hfields
  rw [h.step_cmd_illegal hd]
  obtain ⟨hseq, -, -⟩ := h
  apply Gives.of_eq_next
  simp [State.raise, State.start, CmdError.kind, CmdError.layout, hseq]

/-- Settles O43: the write stores one row of GMEM. -/
theorem writingGmemChangesOnlyThatRow : Obligations.WritingGmemChangesOnlyThatRow := by
  unfold Obligations.WritingGmemChangesOnlyThatRow
  intro s a v rest h hlow hrow
  have hrow' : a.toNat - 0x20 ≤ s.lastRow.val := by omega
  have hi : (⟨a.toNat - 0x20, by omega⟩ : Fin 32) ≤ s.lastRow := hrow'
  have hindex : Fin.ofNat 32 (a.toNat - 0x20) = ⟨a.toNat - 0x20, by omega⟩ :=
    Fin.ext (Nat.mod_eq_of_lt (by omega))
  rw [h.step_eq (regAt_gmem hlow (by omega)), State.writeReg_gmem { s with inputs := rest } v hi, hindex]
  exact ⟨_, rfl, rfl, Memory.read_write_same _ _ _,
    State.regValue_gmem_written _ hi (Memory.read_write_same _ _ _), fun b hb => Memory.read_write_other _ _ hb⟩

/-- Settles O46: the five fields stand at their bits, and a written 1 clears only `DONE` and `ERRSTICKY`. -/
theorem statusFieldsAndAcknowledge : Obligations.StatusFieldsAndAcknowledge := by
  unfold Obligations.StatusFieldsAndAcknowledge
  refine ⟨fun s => s.toNat_statusWord, fun s v rest h => ⟨_, h.step_eq regAt_status, rfl, rfl, rfl, ?_, ?_⟩⟩
  · simp [State.writeReg, Status.acknowledge]
  · simp [State.writeReg, Status.acknowledge]

/-- Settles O48: reserved addresses and read-only registers ignore a write by their register, absent rows by their index. -/
theorem unwritableAddressesIgnoreWrites : Obligations.UnwritableAddressesIgnoreWrites := by
  unfold Obligations.UnwritableAddressesIgnoreWrites
  intro s a
  constructor
  · rintro (hrow | ⟨hlow, hhigh⟩ | hro | hplist) v rest h
    · refine h.gives_unchanged ?_
      obtain ⟨i, hi, hreg | hreg⟩ := absent_row hrow
      · rw [hreg, State.writeReg_gmem_absent { s with inputs := rest } v hi]
      · rw [hreg, State.writeReg_hmem_absent { s with inputs := rest } v hi]
    · exact h.gives_unchanged (State.writeReg_readOnly _ v (by rw [regAt_reserved hlow hhigh]; rfl))
    · exact h.gives_unchanged (State.writeReg_readOnly _ v (readOnly_regAt a hro))
    · exact h.gives_unchanged (State.writeReg_readOnly _ v (by rw [regAt_plist hplist]; rfl))
  · intro haddr rest hseq hin
    have hvalue : s.regValue (regAt a) = 0 := by
      rcases haddr with hrow | ⟨hlow, hhigh⟩
      · obtain ⟨i, hi, hreg | hreg⟩ := absent_row hrow
        · rw [hreg, s.regValue_gmem_absent hi]
        · rw [hreg, s.regValue_hmem_absent hi]
      · rw [regAt_reserved hlow hhigh]
        rfl
    rw [step_read_value hseq hin, hvalue]
    exact ⟨_, rfl, rfl⟩

/-- Settles O49: each write stores the register's defined bits. -/
theorem readWriteRegistersKeepTheirBits : Obligations.ReadWriteRegistersKeepTheirBits := by
  unfold Obligations.ReadWriteRegistersKeepTheirBits
  intro s v rest
  refine ⟨fun h => ?_, fun h => ?_, fun h => ?_, fun h => ?_, fun h => ?_, fun h => ?_⟩
  · exact Gives.of_eq_next (h.step_eq regAt_va)
  · rw [← setWidth_six_eq_ofNat_mod]
    exact Gives.of_eq_next (h.step_eq regAt_lenA)
  · exact Gives.of_eq_next (h.step_eq regAt_vb)
  · rw [← setWidth_six_eq_ofNat_mod]
    exact Gives.of_eq_next (h.step_eq regAt_lenB)
  · exact ⟨_, h.step_eq regAt_mvalid, rfl, (State.toNat_mvalidWord _).trans (toNat_getLsbD_zero_add_one v)⟩
  · exact ⟨_, h.step_eq regAt_ctrl, rfl, (toNat_flagAt_zero _).trans (toNat_getLsbD_zero v)⟩

/-- Settles O50: the port gets the value of the register at the address, and each register's value is spelled out. -/
theorem readsHaveNoSideEffect : Obligations.ReadsHaveNoSideEffect := by
  unfold Obligations.ReadsHaveNoSideEffect
  intro s a rest hseq hin
  have hsix : ∀ x : BitVec 6, (x.setWidth 32).toNat = x.toNat := fun x => BitVec.toNat_setWidth_of_le (by decide)
  have hfive : ∀ x : BitVec 5, (x.setWidth 32).toNat = x.toNat := fun x => BitVec.toNat_setWidth_of_le (by decide)
  have hstatus := s.toNat_statusWord
  rw [State.busy_idle hseq, Bool.toNat_false, Nat.zero_add] at hstatus
  refine ⟨_, step_read_value hseq hin, rfl, ?_⟩
  show (∀ r : Reg, a = r.addr → s.regValue (regAt a) = s.regValue r) ∧ _
  refine ⟨by rintro r rfl; rw [regAt_addr], by rintro rfl; rfl, by rintro rfl; exact s.toNat_param, by rintro rfl; rfl,
    by rintro rfl; exact hstatus, by rintro rfl; exact toNat_flagAt_zero s.ie, by rintro rfl; rfl,
    by rintro rfl; exact hsix s.n, by rintro rfl; exact hsix s.k, by rintro rfl; exact s.toNat_mvalidWord,
    by rintro rfl; rfl, by rintro rfl; exact hsix s.lenA, by rintro rfl; rfl, by rintro rfl; exact hsix s.lenB,
    by rintro rfl; rfl, by rintro rfl; exact hsix s.lenR, by rintro rfl; exact hsix s.res,
    by rintro rfl; exact hsix s.pcnt, by rintro rfl; rfl, by rintro rfl; exact s.toNat_tdata,
    by rintro rfl hwf; exact State.tcount_eq_countP hwf, fun hlow hhigh => ?_, fun i hi => ?_, fun i hi => ?_,
    fun i hi => ?_⟩
  · show s.regValue (regAt a) = 0
    rw [regAt_reserved hlow hhigh]
    rfl
  · show (s.regValue (regAt a)).toNat = _
    rw [regAt_of_toNat_eq (r := .plist i) hi (by omega) rfl]
    exact hfive _
  · show (_ → s.regValue (regAt a) = 0) ∧ ∀ w, _ → _ → s.regValue (regAt a) = w
    rw [regAt_of_toNat_eq (r := .gmem i) hi (by omega) rfl]
    exact ⟨s.regValue_gmem_absent, fun w => s.regValue_gmem_written⟩
  · show (_ → s.regValue (regAt a) = 0) ∧ ∀ w, _ → _ → s.regValue (regAt a) = w
    rw [regAt_of_toNat_eq (r := .hmem i) hi (by omega) rfl]
    exact ⟨s.regValue_hmem_absent, fun w => s.regValue_hmem_written⟩

end

section
/-! What every command leaves as it is, and which of its fields which command can change (R25, R30, R43, R88, R102, R181). -/

namespace Sys2Proof.Machine

variable {s t : State} {i : Instr}

theorem State.noteFallback_status (s : State) :
    s.noteFallback.status = { s.status with softfb := s.noteFallback.status.softfb } := by
  rw [State.noteFallback]
  split
  · rfl
  · rfl

theorem State.counted_frame (s : State) :
    s.counted = { s with seq := .idle, status := s.counted.status, res := s.counted.res } := by
  rw [State.counted, s.noteFallback_frame]
  rfl

theorem State.located_frame (s : State) :
    s.located = { s with
      seq := .idle, status := s.located.status, pcnt := s.located.pcnt, plist := s.located.plist } := by
  rw [State.located, s.noteFallback_frame]
  rfl

/-- A command ends idle and writes results, flags, memories and the RND cursor, never an operand (R88, R181). -/
theorem ExecLeaves.frame (h : ExecLeaves s i t) :
    t = { s with
      seq := .idle, status := t.status, errinfo := t.errinfo, gvalid := t.gvalid, hvalid := t.hvalid, vr := t.vr,
      lenR := t.lenR, res := t.res, pcnt := t.pcnt, plist := t.plist, gmem := t.gmem, hmem := t.hmem, tmem := t.tmem,
      rnd := t.rnd, cursor := t.cursor, draws := t.draws } := by
  cases h with
  | raised => rfl
  | generated => rfl
  | derived => rfl
  | built => rfl
  | decoded => rfl
  | primary => rfl
  | counted => rw [s.counted_frame]
  | located => rw [s.located_frame]

theorem ExecLeaves.inputs (h : ExecLeaves s i t) : t.inputs = s.inputs := by rw [h.frame]

theorem ExecLeaves.ie (h : ExecLeaves s i t) : t.ie = s.ie := by rw [h.frame]

theorem ExecLeaves.seq (h : ExecLeaves s i t) : t.seq = .idle := by rw [h.frame]

/-- A command raises one error, or it is done with the error fields as they were (R88, R181). -/
theorem ExecLeaves.raises_or_completes (h : ExecLeaves s i t) :
    (∃ e d, t = { s with draws := d }.raise e) ∨
      t.status = { s.status with done := true, softfb := t.status.softfb } ∧ t.errinfo = s.errinfo := by
  cases h with
  | raised e d => exact .inl ⟨e, d, rfl⟩
  | generated => exact .inr ⟨rfl, rfl⟩
  | derived => exact .inr ⟨rfl, rfl⟩
  | built => exact .inr ⟨rfl, rfl⟩
  | decoded => exact .inr ⟨rfl, rfl⟩
  | primary => exact .inr ⟨rfl, rfl⟩
  | counted =>
    rw [s.counted_frame]
    exact .inr ⟨congrArg (fun st : Status => { st with done := true }) s.noteFallback_status, rfl⟩
  | located =>
    rw [s.located_frame]
    exact .inr ⟨congrArg (fun st : Status => { st with done := true }) s.noteFallback_status, rfl⟩

/-- Every end of a command sets `DONE` (R88, R181). -/
theorem ExecLeaves.done (h : ExecLeaves s i t) : t.status.done = true := by
  obtain ⟨e, d, rfl⟩ | ⟨hstatus, -⟩ := h.raises_or_completes
  · rfl
  · rw [hstatus]

/-- No command clears `ERRSTICKY` (R25, R183). -/
theorem ExecLeaves.errsticky (h : ExecLeaves s i t) (hs : s.status.errsticky = true) : t.status.errsticky = true := by
  obtain ⟨e, d, rfl⟩ | ⟨hstatus, -⟩ := h.raises_or_completes
  · rfl
  · rw [hstatus]
    exact hs

/-- Only GEN_G draws from the RND stream (R102). -/
theorem ExecLeaves.rnd (h : ExecLeaves s i t) (hi : i ≠ .genG) : t.rnd = s.rnd ∧ t.cursor = s.cursor := by
  cases h with
  | raised => exact ⟨rfl, rfl⟩
  | generated => exact absurd rfl hi
  | derived => exact ⟨rfl, rfl⟩
  | built => exact ⟨rfl, rfl⟩
  | decoded => exact ⟨rfl, rfl⟩
  | primary => exact ⟨rfl, rfl⟩
  | counted => rw [s.counted_frame]; exact ⟨rfl, rfl⟩
  | located => rw [s.located_frame]; exact ⟨rfl, rfl⟩

/-- The body of a DERIVE_H whose checks pass (R111, R112). -/
def DerivesH (s : State) (i : Instr) : Prop :=
  i = .deriveH ∧ s.dimsOk = true ∧ s.gvalid = true ∧ identityMismatch s.matG s.kVal = none

/-- Only DERIVE_H and BUILD_TABLE, after their checks, touch the table (R43). -/
theorem ExecLeaves.tmem (h : ExecLeaves s i t) :
    t.tmem = s.tmem ∨ DerivesH s i ∨ i = .buildTable ∧ s.dimsOk = true ∧ s.hvalid = true := by
  cases h with
  | raised => exact .inl rfl
  | generated => exact .inl rfl
  | derived hd hg hi => exact .inr (.inl ⟨rfl, hd, hg, hi⟩)
  | built hd hh => exact .inr (.inr ⟨rfl, hd, hh⟩)
  | decoded => exact .inl rfl
  | primary => exact .inl rfl
  | counted => rw [s.counted_frame]; exact .inl rfl
  | located => rw [s.located_frame]; exact .inl rfl

/-- Only GEN_G, after its check, sets `GVALID`, and only DERIVE_H, after its checks, sets `HVALID` (R30). -/
theorem ExecLeaves.flags (h : ExecLeaves s i t) :
    (t.gvalid = s.gvalid ∨ i = .genG ∧ s.dimsOk = true) ∧ (t.hvalid = s.hvalid ∨ DerivesH s i) := by
  cases h with
  | raised => exact ⟨.inl rfl, .inl rfl⟩
  | generated hd => exact ⟨.inr ⟨rfl, hd⟩, .inl rfl⟩
  | derived hd hg hi => exact ⟨.inl rfl, .inr ⟨rfl, hd, hg, hi⟩⟩
  | built => exact ⟨.inl rfl, .inl rfl⟩
  | decoded => exact ⟨.inl rfl, .inl rfl⟩
  | primary => exact ⟨.inl rfl, .inl rfl⟩
  | counted => rw [s.counted_frame]; exact ⟨.inl rfl, .inl rfl⟩
  | located => rw [s.located_frame]; exact ⟨.inl rfl, .inl rfl⟩

end Sys2Proof.Machine
end

section
/-! What a host write can change, register by register (R24, R25, R29, R30, R38, R41, R64). -/

namespace Sys2Proof.Machine

variable {s : State} {v : Word} {r : Reg}

/-- The write of `CMD` changes the sequencer, `STATUS` and `ERRINFO` (R84, R87). -/
theorem State.writeCmd_frame (s : State) (v : Word) :
    s.writeCmd v = { s with
      seq := (s.writeCmd v).seq, status := (s.writeCmd v).status, errinfo := (s.writeCmd v).errinfo } := by
  cases hd : decode v with
  | ok i => rw [s.writeCmd_legal hd]; rfl
  | error e => rw [s.writeCmd_illegal hd]; rfl

/-- The write of `CMD` does not clear `ERRSTICKY` (R87). -/
theorem State.errsticky_writeCmd (h : s.status.errsticky = true) : (s.writeCmd v).status.errsticky = true := by
  cases hd : decode v with
  | ok i => rw [s.writeCmd_legal hd]; exact h
  | error e => rw [s.writeCmd_illegal hd]; rfl

/-- The registers with a side effect on the sequencer, `STATUS`, `MVALID` or the table as a whole. -/
def Reg.control : List Reg := [.cmd, .status, .n, .k, .mvalid]

/-- Any other write changes stored data only. -/
theorem State.writeReg_frame (s : State) (v : Word) (h : r ∉ Reg.control) :
    s.writeReg v r = { s with
      ie := (s.writeReg v r).ie, va := (s.writeReg v r).va, lenA := (s.writeReg v r).lenA, vb := (s.writeReg v r).vb,
      lenB := (s.writeReg v r).lenB, taddr := (s.writeReg v r).taddr, gmem := (s.writeReg v r).gmem,
      hmem := (s.writeReg v r).hmem, tmem := (s.writeReg v r).tmem } := by
  cases r with
  | cmd => exact absurd (by decide) h
  | status => exact absurd (by decide) h
  | n => exact absurd (by decide) h
  | k => exact absurd (by decide) h
  | mvalid => exact absurd (by decide) h
  | tdata =>
    have hframe : s.writeReg v .tdata = { s with tmem := (s.writeTdata v).tmem } := s.writeTdata_frame v
    rw [hframe]
  | gmem i =>
    rw [State.writeReg]
    split
    · rfl
    · rfl
  | hmem i =>
    rw [State.writeReg]
    split
    · rfl
    · rfl
  | _ => rfl

theorem Reg.mem_control : r ∈ Reg.control ↔ r = .cmd ∨ r = .status ∨ r = .n ∨ r = .k ∨ r = .mvalid := by
  simp [Reg.control]

/-- No write changes `N_MAX` (R7). -/
theorem State.lastRow_writeReg (s : State) (v : Word) (r : Reg) : (s.writeReg v r).lastRow = s.lastRow := by
  by_cases hr : r ∈ Reg.control
  · obtain rfl | rfl | rfl | rfl | rfl := Reg.mem_control.1 hr
    · rw [State.writeReg, s.writeCmd_frame v]
    all_goals rfl
  · rw [s.writeReg_frame v hr]

/-- Only the write of `STATUS` with bit 9 set clears `ERRSTICKY` (R25). -/
theorem State.errsticky_writeReg (h : s.status.errsticky = true) :
    (s.writeReg v r).status.errsticky = true ∨ r = .status ∧ v.getLsbD 9 = true := by
  by_cases hr : r ∈ Reg.control
  · obtain rfl | rfl | rfl | rfl | rfl := Reg.mem_control.1 hr
    · exact .inl (State.errsticky_writeCmd h)
    · cases hv : v.getLsbD 9 with
      | true => exact .inr ⟨rfl, rfl⟩
      | false => exact .inl (by simp [State.writeReg, Status.acknowledge, h, hv, -BitVec.getLsbD_eq_getElem])
    all_goals exact .inl h
  · rw [s.writeReg_frame v hr]
    exact .inl h

/-- Only the write of `MVALID` sets a matrix flag, to the bit written (R30). -/
theorem State.flags_writeReg (s : State) (v : Word) (r : Reg) :
    ((s.writeReg v r).gvalid = true → s.gvalid = true ∨ r = .mvalid ∧ v.getLsbD 0 = true) ∧
    ((s.writeReg v r).hvalid = true → s.hvalid = true ∨ r = .mvalid ∧ v.getLsbD 1 = true) := by
  by_cases hr : r ∈ Reg.control
  · obtain rfl | rfl | rfl | rfl | rfl := Reg.mem_control.1 hr
    · rw [State.writeReg, s.writeCmd_frame v]
      exact ⟨.inl, .inl⟩
    · exact ⟨.inl, .inl⟩
    · exact ⟨nofun, nofun⟩
    · exact ⟨nofun, nofun⟩
    · exact ⟨fun h => .inr ⟨rfl, h⟩, fun h => .inr ⟨rfl, h⟩⟩
  · rw [s.writeReg_frame v hr]
    exact ⟨.inl, .inl⟩

/-- A write of `TDATA` takes away no entry but the one at `TADDR`, when bit 31 is 0 (R41). -/
theorem State.isSome_read_writeTdata {a : Nat} (h : (s.tmem.read a).isSome) :
    ((s.writeReg v .tdata).tmem.read a).isSome ∨ s.taddr.toNat = a ∧ v.getLsbD 31 = false := by
  cases hv : v.getLsbD 31 with
  | true =>
    rw [s.writeReg_tdata_valid v hv, Memory.read_write]
    split
    · exact .inl rfl
    · exact .inl h
  | false =>
    by_cases ha : a = s.taddr.toNat
    · exact .inr ⟨ha.symm, rfl⟩
    · rw [s.writeReg_tdata_invalid v hv, Memory.read_erase_other _ ha]
      exact .inl h

/-- The writes that take a valid entry away (R29, R38, R41). -/
theorem State.isSome_read_writeReg {a : Nat} (h : (s.tmem.read a).isSome) :
    ((s.writeReg v r).tmem.read a).isSome ∨ r = .n ∨ r = .k ∨ (∃ i, i ≤ s.lastRow ∧ r = .hmem i) ∨
      r = .tdata ∧ s.taddr.toNat = a ∧ v.getLsbD 31 = false := by
  cases r with
  | n => exact .inr (.inl rfl)
  | k => exact .inr (.inr (.inl rfl))
  | hmem i =>
    by_cases hi : i ≤ s.lastRow
    · exact .inr (.inr (.inr (.inl ⟨i, hi, rfl⟩)))
    · rw [s.writeReg_hmem_absent v (lt_of_not_ge hi)]
      exact .inl h
  | tdata => exact (State.isSome_read_writeTdata h).imp id fun h => .inr (.inr (.inr ⟨rfl, h⟩))
  | cmd =>
    rw [State.writeReg, s.writeCmd_frame v]
    exact .inl h
  | gmem i =>
    rw [State.writeReg]
    split
    · exact .inl h
    · exact .inl h
  | _ => exact .inl h

/-- A register other than the reserved region has one address (R60, R61). -/
theorem addr_regAt : ∀ a : BitVec 7, regAt a ≠ .reserved → (regAt a).addr = a := by decide

theorem eq_addr_of_regAt {a : BitVec 7} (h : regAt a = r) (hr : r ≠ .reserved) : a = r.addr := by
  rw [← h, addr_regAt a (h ▸ hr)]

end Sys2Proof.Machine
end

section
/-! What a step can change: which of its parts lets an entry of the table, `ERRSTICKY` or a matrix flag fall or rise (R25, R30,
R43), and that `N_MAX` never changes (R7). -/

namespace Sys2Proof.Claims
open Sys2Proof.Machine

variable {s t : State}

/-- No step changes `N_MAX` (R7). -/
theorem StepLeaves.lastRow (h : StepLeaves s t) : t.lastRow = s.lastRow := by
  cases h with
  | kept => rfl
  | ran _ hleaves => rw [hleaves.frame]
  | illegal => rfl
  | wrote => exact State.lastRow_writeReg _ _ _
  | reset u _ hu => exact hu

/-- What makes a step take a valid entry away (R43). -/
theorem StepLeaves.tmem {a : Nat} (h : StepLeaves s t) (hs : (s.tmem.read a).isSome) :
    (t.tmem.read a).isSome ∨ ResetNow s ∨
    (∃ (d : BitVec 7) (v : Word) (rest : List Input), HostWrites s d v rest ∧
      (d = 0x06 ∨ d = 0x07 ∨ (0x40 ≤ d.toNat ∧ d.toNat ≤ 0x40 + s.lastRow.val) ∨
        (d = 0x12 ∧ s.taddr.toNat = a ∧ v.getLsbD 31 = false))) ∨
    (RunsNow s .deriveH ∧ Dims s ∧ s.gvalid = true ∧ LeftIdentity s) ∨
    (RunsNow s .buildTable ∧ Dims s ∧ s.hvalid = true) := by
  cases h with
  | kept => exact .inl hs
  | illegal => exact .inl hs
  | reset _ hreset => exact .inr (.inl hreset)
  | ran hr hleaves =>
    obtain hsame | ⟨rfl, hd, hg, hi⟩ | ⟨rfl, hd, hh⟩ := hleaves.tmem
    · exact .inl (hsame ▸ hs)
    · exact .inr (.inr (.inr (.inl ⟨hr, State.dimsOk_iff _ |>.1 hd, hg, identityMismatch_eq_none.1 hi⟩)))
    · exact .inr (.inr (.inr (.inr ⟨hr, State.dimsOk_iff _ |>.1 hd, hh⟩)))
  | @wrote d v rest hw =>
    refine (State.isSome_read_writeReg (s := { s with inputs := rest }) hs).imp id fun hcause => ?_
    refine .inr (.inl ⟨d, v, rest, hw, ?_⟩)
    obtain hreg | hreg | ⟨i, hi, hreg⟩ | ⟨hreg, ha, hv⟩ := hcause
    · exact .inl (eq_addr_of_regAt hreg nofun)
    · exact .inr (.inl (eq_addr_of_regAt hreg nofun))
    · have hd : d.toNat = 0x40 + i.val := by
        rw [eq_addr_of_regAt hreg nofun, Reg.addr, BitVec.toNat_ofNat, Nat.mod_eq_of_lt (by omega)]
      have hi' : i.val ≤ s.lastRow.val := hi
      exact .inr (.inr (.inl (by omega)))
    · exact .inr (.inr (.inr ⟨eq_addr_of_regAt hreg nofun, ha, hv⟩))

/-- What makes a step clear `ERRSTICKY` (R25, R183). -/
theorem StepLeaves.errsticky (h : StepLeaves s t) (hs : s.status.errsticky = true) :
    t.status.errsticky = true ∨ ResetNow s ∨ ∃ v rest, HostWrites s 0x03 v rest ∧ v.getLsbD 9 = true := by
  cases h with
  | kept => exact .inl hs
  | illegal => exact .inl rfl
  | reset _ hreset => exact .inr (.inl hreset)
  | ran _ hleaves => exact .inl (hleaves.errsticky hs)
  | @wrote d v rest hw =>
    refine (State.errsticky_writeReg (s := { s with inputs := rest }) hs).imp id ?_
    rintro ⟨hreg, hv⟩
    obtain rfl : d = 0x03 := eq_addr_of_regAt hreg nofun
    exact .inr ⟨v, rest, hw, hv⟩

/-- What makes a step set `GVALID` (R30). -/
theorem StepLeaves.gvalid (h : StepLeaves s t) (ht : t.gvalid = true) :
    s.gvalid = true ∨ (∃ v rest, HostWrites s 0x08 v rest ∧ v.getLsbD 0 = true) ∨ (RunsNow s .genG ∧ Dims s) := by
  cases h with
  | kept => exact .inl ht
  | illegal => exact .inl ht
  | reset => cases ht
  | ran hr hleaves =>
    obtain ⟨hsame | ⟨rfl, hd⟩, -⟩ := hleaves.flags
    · exact .inl (hsame.symm.trans ht)
    · exact .inr (.inr ⟨hr, State.dimsOk_iff _ |>.1 hd⟩)
  | @wrote d v rest hw =>
    refine ((State.flags_writeReg { s with inputs := rest } v (regAt d)).1 ht).imp id ?_
    rintro ⟨hreg, hv⟩
    obtain rfl : d = 0x08 := eq_addr_of_regAt hreg nofun
    exact .inl ⟨v, rest, hw, hv⟩

/-- What makes a step set `HVALID` (R30). -/
theorem StepLeaves.hvalid (h : StepLeaves s t) (ht : t.hvalid = true) :
    s.hvalid = true ∨ (∃ v rest, HostWrites s 0x08 v rest ∧ v.getLsbD 1 = true) ∨
      (RunsNow s .deriveH ∧ Dims s ∧ s.gvalid = true ∧ LeftIdentity s) := by
  cases h with
  | kept => exact .inl ht
  | illegal => exact .inl ht
  | reset => cases ht
  | ran hr hleaves =>
    obtain ⟨-, hsame | ⟨rfl, hd, hg, hi⟩⟩ := hleaves.flags
    · exact .inl (hsame.symm.trans ht)
    · exact .inr (.inr ⟨hr, State.dimsOk_iff _ |>.1 hd, hg, identityMismatch_eq_none.1 hi⟩)
  | @wrote d v rest hw =>
    refine ((State.flags_writeReg { s with inputs := rest } v (regAt d)).2 ht).imp id ?_
    rintro ⟨hreg, hv⟩
    obtain rfl : d = 0x08 := eq_addr_of_regAt hreg nofun
    exact .inl ⟨v, rest, hw, hv⟩

/-- Running one step more (the host's `Core.run`). -/
theorem core_run_succ (h : step s = .next t) (k : Nat) : Sys2Proof.core.run (k + 1) s = Sys2Proof.core.run k t := by
  have hrun : ∀ (M : Host.Core) (u v : M.State), M.step u = .next v → M.run (k + 1) u = M.run k v :=
    fun M u v h => by rw [Host.Core.run, h]
  exact hrun Sys2Proof.core s t h

/-- The sequencer's turn answers a next state. -/
theorem exists_sequencerTurn (s : State) : ∃ t, s.sequencerTurn = .next t := by
  cases hrst : s.rstHeld with
  | true => exact ⟨s, sequencerTurn_held hrst⟩
  | false =>
    cases hseq : s.seq with
    | idle => exact ⟨s, sequencerTurn_idle hseq⟩
    | running w =>
      rw [sequencerTurn_running hseq hrst]
      cases hd : decode w with
      | ok i =>
        obtain ⟨t, ht, -⟩ := exec_leaves i s
        exact ⟨t, (runWord_legal hd).trans ht⟩
      | error e => exact ⟨_, runWord_illegal hd⟩

/-- A step with a latched command runs its body (R72, R87). -/
theorem step_runs {w : Word} {i : Instr} (hseq : s.seq = .running w) (hrst : s.rstHeld = false)
    (hd : decode w = .ok i) :
    (s.inputs = [] → step s = exec i s) ∧
    ∀ rest, s.inputs = .quiet :: rest → step s = exec i { s with inputs := rest } :=
  ⟨fun hin => by rw [step_nil hin, sequencerTurn_running hseq hrst, runWord_legal hd],
    fun rest hin => by
      rw [step_quiet hin, sequencerTurn_running (s := { s with inputs := rest }) hseq hrst, runWord_legal hd]⟩

end Sys2Proof.Claims
end

section
/-! The obligations about every command and every step (R25, R30, R43, R87, R88, R102, R181, R186). -/

open Sys2Proof Sys2Proof.Machine Sys2Proof.Claims

/-- Settles O4: the latched word is decoded and its body run. -/
theorem stepRunsTheDecodedCommand : Obligations.StepRunsTheDecodedCommand := by
  unfold Obligations.StepRunsTheDecodedCommand
  refine ⟨fun s w i hseq hrst hd => step_runs hseq hrst hd, fun s nbits w i hd => ?_⟩
  exact (step_runs (s := s.withFetchWord nbits w) rfl rfl (commandOf_eq_some.1 hd)).2 s.inputs rfl

/-- Settles O8: an idle sequencer's turn changes nothing. -/
theorem idleMachineStaysIdle : Obligations.IdleMachineStaysIdle := by
  unfold Obligations.IdleMachineStaysIdle
  intro s hseq
  constructor
  · intro hin
    exact Gives.of_eq_next ((step_nil hin).trans (sequencerTurn_idle hseq))
  · intro rest hin
    exact Gives.of_eq_next ((step_quiet hin).trans (sequencerTurn_idle (s := { s with inputs := rest }) hseq))

/-- Settles O9: the `CMD` write starts the command, the sequencer's turn runs its body, which keeps the inputs, and the read
of `STATUS` then finds the block idle. -/
theorem runStartsExecutesAndReadsStatus : Obligations.RunStartsExecutesAndReadsStatus := by
  unfold Obligations.RunStartsExecutesAndReadsStatus
  intro s i rest hseq hrst hin
  have hd : decode (encode i) = .ok i := decode_eq_ok_iff.2 rfl
  have hwrite : HostWrites s 0x02 (encode i) (.quiet :: .read 0x03 :: rest) := ⟨hseq, hrst, hin⟩
  obtain ⟨t, ht, hleaves⟩ := exec_leaves i ({ s with inputs := .read 0x03 :: rest }.start (encode i))
  refine ⟨t, ht, t.draws + 1, ?_⟩
  have hbody := (step_runs (s := { s with inputs := .quiet :: .read 0x03 :: rest }.start (encode i)) rfl hrst hd).2 _ rfl
  have hinputs : t.inputs = .read 0x03 :: rest := hleaves.inputs
  have hread : State.hostRead { t with inputs := rest } 0x03 =
      { t with inputs := rest, rdata := t.statusWord, draws := t.draws + 1 } :=
    congrArg (fun p => { t with inputs := rest, rdata := p, draws := t.draws + 1 })
      (State.portValue_status { t with inputs := rest })
  calc Sys2Proof.core.run 3 s
      = Sys2Proof.core.run 2 ({ s with inputs := .quiet :: .read 0x03 :: rest }.start (encode i)) :=
        core_run_succ (hwrite.step_cmd_legal hd) 2
    _ = Sys2Proof.core.run 1 t := core_run_succ (hbody.trans ht) 1
    _ = .next (State.hostRead { t with inputs := rest } 0x03) :=
        core_run_succ (step_read hinputs) 0
    _ = _ := congrArg Host.Outcome.next hread

/-- Settles O10: a read, a write and a reset answer a next state, and so does every command. -/
theorem everyStepAnswersANextState : Obligations.EveryStepAnswersANextState := by
  unfold Obligations.EveryStepAnswersANextState
  intro s
  cases hin : s.inputs with
  | nil => exact (exists_sequencerTurn s).imp fun t h => (step_nil hin).trans h
  | cons x rest =>
    cases x with
    | quiet => exact (exists_sequencerTurn _).imp fun t h => (step_quiet hin).trans h
    | read a => exact ⟨_, step_read hin⟩
    | write a v => exact ⟨_, step_write hin⟩
    | rst level => exact ⟨_, step_rst hin⟩

/-- Settles O11: what a command leaves is a raise or a completion. -/
theorem failedCommandChangesOnlyStatus : Obligations.FailedCommandChangesOnlyStatus := by
  unfold Obligations.FailedCommandChangesOnlyStatus
  intro i s
  obtain ⟨t, ht, hleaves⟩ := exec_leaves i s
  obtain ⟨e, d, rfl⟩ | ⟨hstatus, herrinfo⟩ := hleaves.raises_or_completes
  · exact .inr ⟨e, s.rdata, d, ht⟩
  · refine .inl ⟨t, ht, hleaves.seq, hleaves.done, ?_, ?_, herrinfo⟩
    · rw [hstatus]
    · rw [hstatus]

/-- Settles O19: no other body takes from the stream. -/
theorem onlyGenGDrawsRandomBits : Obligations.OnlyGenGDrawsRandomBits := by
  unfold Obligations.OnlyGenGDrawsRandomBits
  exact fun i s t h hi => (execLeaves_of_exec h).rnd hi

/-- Settles O47: `IE` is kept by every command and `DONE` is set by its end; the listed writes and reset clear one of them. -/
theorem interruptFollowsIeAndDone : Obligations.InterruptFollowsIeAndDone := by
  unfold Obligations.InterruptFollowsIeAndDone
  have hirq : ∀ s : State, s.irq = true ↔ s.ie = true ∧ s.status.done = true := fun s => Bool.and_eq_true_iff
  have hlow : ∀ s : State, s.status.done = false → s.irq = false := fun s h => by rw [State.irq, h, Bool.and_false]
  refine ⟨hirq, fun i s hie => ?_, fun s v rest h hv => ?_, fun s v i rest h hd => ?_, fun s v e rest h hd hie => ?_,
    fun s v rest h => ?_, fun s rest hin => ?_⟩
  · obtain ⟨t, ht, hleaves⟩ := exec_leaves i s
    exact ⟨t, ht, (hirq t).2 ⟨hleaves.ie.trans hie, hleaves.done⟩⟩
  · refine ⟨_, h.step_eq regAt_status, hlow _ ?_⟩
    show (s.status.done && !v.getLsbD 1) = false
    rw [hv, Bool.not_true, Bool.and_false]
  · exact ⟨_, h.step_cmd_legal hd, hlow _ rfl⟩
  · exact ⟨_, h.step_cmd_illegal hd, (hirq _).2 ⟨hie, rfl⟩⟩
  · exact ⟨_, h.step_eq regAt_ctrl, rfl, Iff.rfl⟩
  · exact ⟨_, step_rst hin, rfl, rfl⟩

/-- Settles O51: a command writes none of these, and no part of a step writes `N_MAX`. -/
theorem noCommandWritesItsOperands : Obligations.NoCommandWritesItsOperands := by
  unfold Obligations.NoCommandWritesItsOperands
  constructor
  · intro i s t h
    rw [(execLeaves_of_exec h).frame]
    exact ⟨rfl, rfl, rfl, rfl, rfl, rfl, rfl, rfl, rfl, rfl, rfl⟩
  · exact fun s t h => (stepLeaves_of_step h).lastRow

/-- Settles O52: an entry that a step takes away has one of the listed causes. -/
theorem validBitsFallOnlyByTheListedCauses : Obligations.ValidBitsFallOnlyByTheListedCauses := by
  unfold Obligations.ValidBitsFallOnlyByTheListedCauses
  intro s t a h hs hnone
  refine ((stepLeaves_of_step h).tmem hs).resolve_left ?_
  rw [hnone]
  exact nofun

/-- Settles O53: `ERRSTICKY` stays set but for the host's write and reset. -/
theorem errstickyFallsOnlyByHostOrReset : Obligations.ErrstickyFallsOnlyByHostOrReset := by
  unfold Obligations.ErrstickyFallsOnlyByHostOrReset
  intro s t h hs hclear
  refine ((stepLeaves_of_step h).errsticky hs).resolve_left ?_
  rw [hclear]
  exact nofun

/-- Settles O54: a flag set after a step was set before it or has one of the listed causes. -/
theorem matrixFlagsRiseOnlyByTheListedCauses : Obligations.MatrixFlagsRiseOnlyByTheListedCauses := by
  unfold Obligations.MatrixFlagsRiseOnlyByTheListedCauses
  intro s t h
  have hleaves := stepLeaves_of_step h
  constructor
  · intro hs ht
    exact (hleaves.gvalid ht).resolve_left (ne_true_of_eq_false hs)
  · intro hs ht
    exact (hleaves.hvalid ht).resolve_left (ne_true_of_eq_false hs)

end

section
/-! What driving `rst` leaves (R200 to R202): the values of R201, which no transaction moves while `rst` is asserted. -/

namespace Sys2Proof.Machine

/-- The state an assertion of `rst`, or its release, leaves; `inp` is what the environment does next. -/
def State.afterRst (s : State) (inp : List Input) (level : Bool) : State :=
  { s.takeRnd s.abandonedRnd with rstHeld := level, inputs := inp, draws := s.draws + 1 }.resetValues

/-- A command other than GEN_G has consumed no RND bits when `rst` abandons it (R102, R202). -/
theorem State.abandonedRnd_of_ne {s : State} {w : Word} (hseq : s.seq = .running w) (hd : decode w ≠ .ok .genG) :
    s.abandonedRnd = 0 := by
  have hcmd : commandOf w ≠ some .genG := mt commandOf_eq_some.1 hd
  simp [State.abandonedRnd, hseq, hcmd]

end Sys2Proof.Machine

namespace Sys2Proof.Claims
open Sys2Proof.Machine

variable {s : State} {l : Fin 32} {rest : List Input}

theorem step_rst_asserted (hin : s.inputs = .rst true :: rest) : step s = .next (s.afterRst rest true) :=
  step_rst hin

theorem step_rst_released (hrst : s.rstHeld = true) (hin : s.inputs = .rst false :: rest) :
    step s = .next (s.afterRst rest false) := by
  rw [step_rst hin, State.rst_release (s := { s with inputs := rest }) hrst]
  rfl

/-- `State.resetValues` has the values of R201 in the statements' terms: a row is unwritten, or has no storage and reads 0. -/
theorem resetValues_resetValues (u : State) : ResetValues u.resetValues u.lastRow := by
  have hstatus : flagAt false 0 ||| flagAt false 1 ||| (ErrKind.code .noError).setWidth 32 <<< 4 ||| flagAt false 8 |||
      flagAt false 9 = 0 := by decide
  have hmvalid : flagAt false 0 ||| flagAt false 1 = 0 := by decide
  refine ⟨rfl, rfl, rfl, fun _ => rfl, fun r => ?_⟩
  cases r with
  | param => exact State.toNat_param _
  | status => exact hstatus
  | mvalid => exact hmvalid
  | plist x => simp [State.regValue, State.resetValues, State.reset, Vector.get]
  | gmem i =>
    show if i ≤ u.lastRow then _ else _
    split
    · rfl
    next hi => exact State.regValue_gmem_absent _ (lt_of_not_ge hi)
  | hmem i =>
    show if i ≤ u.lastRow then _ else _
    split
    · rfl
    next hi => exact State.regValue_hmem_absent _ (lt_of_not_ge hi)
  | _ => rfl

/-- Driving `rst` leaves the values of R201 (R200, R202). -/
theorem resetValues_afterRst (s : State) (inp : List Input) (level : Bool) :
    ResetValues (s.afterRst inp level) s.lastRow := resetValues_resetValues _

/-- The inputs, the port and the draw counter are no part of the values of R201. -/
theorem ResetValues.with_port (h : ResetValues s l) (inp : List Input) (p : Word) (d : Nat) :
    ResetValues { s with inputs := inp, rdata := p, draws := d } l := by
  obtain ⟨hseq, hirq, hlast, htmem, hregs⟩ := h
  refine ⟨hseq, hirq, hlast, htmem, fun r => ?_⟩
  have hr := hregs r
  cases r with
  | gmem i =>
    show if i ≤ l then _ else _
    split
    next hi => exact (if_pos hi).mp hr
    next hi => exact State.regValue_gmem_absent _ (hlast.trans_lt (lt_of_not_ge hi))
  | hmem i =>
    show if i ≤ l then _ else _
    split
    next hi => exact (if_pos hi).mp hr
    next hi => exact State.regValue_hmem_absent _ (hlast.trans_lt (lt_of_not_ge hi))
  | _ => exact hr

/-- While `rst` is asserted, everything but its release uses up its input and leaves the values of R201 and the RND stream
where they are: reads move the port, writes and turns of the sequencer nothing (R200). -/
theorem step_of_held (hrst : s.rstHeld = true) (h : ResetValues s l) (hin : ∀ rest, s.inputs ≠ .rst false :: rest) :
    ∃ t, step s = .next t ∧ t.rstHeld = true ∧ ResetValues t l ∧ t.rnd = s.rnd ∧ t.cursor = s.cursor := by
  have hkept : ∀ {inp p d}, step s = .next { s with inputs := inp, rdata := p, draws := d } →
      ∃ t, step s = .next t ∧ t.rstHeld = true ∧ ResetValues t l ∧ t.rnd = s.rnd ∧ t.cursor = s.cursor :=
    fun hstep => ⟨_, hstep, hrst, h.with_port _ _ _, rfl, rfl⟩
  cases hinputs : s.inputs with
  | nil => exact ⟨s, (step_nil hinputs).trans (sequencerTurn_held hrst), hrst, h, rfl, rfl⟩
  | cons x rest =>
    cases x with
    | quiet => exact hkept ((step_quiet hinputs).trans (sequencerTurn_held (s := { s with inputs := rest }) hrst))
    | read a => exact hkept (step_read hinputs)
    | write a v =>
      exact hkept ((step_write hinputs).trans
        (congrArg _ (State.hostWrite_held { s with inputs := rest } a v hrst)))
    | rst level =>
      cases level with
      | false => exact absurd hinputs (hin rest)
      | true =>
        obtain ⟨hseq, -, hlast, -⟩ := h
        have hnone := State.abandonedRnd_idle hseq
        refine ⟨_, step_rst_asserted hinputs, rfl, hlast ▸ resetValues_afterRst s rest true, ?_, ?_⟩
        · show s.rnd.drop s.abandonedRnd = s.rnd
          rw [hnone, List.drop_zero]
        · show s.cursor + s.abandonedRnd = s.cursor
          rw [hnone, Nat.add_zero]

end Sys2Proof.Claims
end

section
/-! The obligations about reset (R200 to R202). -/

open Sys2Proof Sys2Proof.Machine Sys2Proof.Claims

/-- Settles O55: an idle block has no bits to consume, and a held block does nothing by itself. -/
theorem resetLeavesTheListedValues : Obligations.ResetLeavesTheListedValues := by
  unfold Obligations.ResetLeavesTheListedValues
  intro s rest hseq hin
  have hnone := State.abandonedRnd_idle hseq
  refine ⟨_, step_rst_asserted hin, resetValues_afterRst s rest true, ?_, ?_, ?_⟩
  · show s.rnd.drop s.abandonedRnd = s.rnd
    rw [hnone, List.drop_zero]
  · show s.cursor + s.abandonedRnd = s.cursor
    rw [hnone, Nat.add_zero]
  · rintro rfl
    exact Gives.of_eq_next ((step_nil rfl).trans (sequencerTurn_held rfl))

/-- Settles O56: the bits consumed are those `State.abandonedRnd` counts. -/
theorem resetAbandonsTheCommand : Obligations.ResetAbandonsTheCommand := by
  unfold Obligations.ResetAbandonsTheCommand
  intro s w rest hseq hin
  exact ⟨_, s.abandonedRnd, step_rst_asserted hin, resetValues_afterRst s rest true, rfl, rfl, s.abandonedRnd_le,
    State.abandonedRnd_of_ne hseq⟩

/-- Settles O60: assertion and release leave the values of R201, and what comes between keeps them. -/
theorem assertedResetHoldsItsValues : Obligations.AssertedResetHoldsItsValues := by
  unfold Obligations.AssertedResetHoldsItsValues
  refine ⟨fun s rest hin => ?_, fun s hrst h hin => step_of_held hrst h hin, fun s rest hrst hin => ?_,
    fun s rest hrst hin => ?_⟩
  · exact ⟨_, step_rst_asserted hin, rfl, resetValues_afterRst s rest true⟩
  · exact ⟨_, step_rst_released hrst hin, rfl, resetValues_afterRst s rest false⟩
  · exact Gives.of_eq_next ((step_rst hin).trans (congrArg _ (State.rst_released (s := { s with inputs := rest }) hrst)))

end

section
/-! The obligations about the code words, the error codes and the order of the checks (R27, R80, R82, R176 to R178, R182). -/

open Sys2Proof Sys2Proof.Machine Sys2Proof.Claims

/-- Settles O1: twelve words, decoded one by one. -/
theorem decoderReadsTheOpcodeMap : Obligations.DecoderReadsTheOpcodeMap := by
  unfold Obligations.DecoderReadsTheOpcodeMap
  decide

/-- Settles O2: the table word of 32 bits is the word itself. -/
theorem encodedCommandDecodesBack : Obligations.EncodedCommandDecodesBack := by
  unfold Obligations.EncodedCommandDecodesBack
  intro i _
  have hword : tableWord 32 (encode i).toNat = encode i := by
    rw [tableWord, Nat.mod_eq_of_lt (encode i).isLt, BitVec.ofNat_toNat, BitVec.setWidth_eq]
  refine ⟨decode_eq_ok_iff.2 rfl, ?_⟩
  rw [decodeTableWord, hword, commandOf_encode]

/-- Settles O12: the codes are the constructors' numbers, and row, column and syndrome fit their fields. -/
theorem errorCodesAndLayouts : Obligations.ErrorCodesAndLayouts := by
  unfold Obligations.ErrorCodesAndLayouts
  refine ⟨rfl, fun c => ⟨rfl, ?_⟩, fun i j hi hj => ⟨rfl, ?_⟩, fun a ha => ⟨rfl, ?_⟩, fun w => ⟨rfl, rfl⟩⟩
  · cases c with
    | dim => rfl
    | missing => rfl
    | len => rfl
  · rw [layout_configuration hi hj, BitVec.toNat_ofNat, Nat.mod_eq_of_lt (by omega)]
  · rw [layout_internalInvariant ha, BitVec.toNat_ofNat, Nat.mod_eq_of_lt (by omega)]

/-- Settles O13: the dimension check is the first of each of the five commands. -/
theorem badDimensionsAreReportedFirst : Obligations.BadDimensionsAreReportedFirst := by
  unfold Obligations.BadDimensionsAreReportedFirst
  intro s hd i hi
  have hbad := dimsOk_of_not_dims hd
  cases i with
  | genG => exact gives_raised (execGenG_dim s hbad)
  | deriveH => exact gives_raised (execDeriveH_dim s hbad)
  | buildTable => exact gives_raised (execBuildTable_dim s hbad)
  | decode => exact gives_raised (execDecode_dim s hbad)
  | getPrimary => exact gives_raised (execGetPrimary_dim s hbad)
  | cntErr => exact absurd hi (by decide)
  | errPos => exact absurd hi (by decide)

/-- Settles O14: the matrix check is the second of each of the three commands. -/
theorem missingMatrixIsReportedSecond : Obligations.MissingMatrixIsReportedSecond := by
  unfold Obligations.MissingMatrixIsReportedSecond
  intro s hd
  have hok := dimsOk_of_dims hd
  exact ⟨fun hg => gives_raised (execDeriveH_missing s hok hg),
    fun hh => ⟨gives_raised (execBuildTable_missing s hok hh), gives_raised (execDecode_missing s hok hh)⟩⟩

/-- Settles O15: the length check is the last of each command that has one. -/
theorem wrongLengthIsReportedThird : Obligations.WrongLengthIsReportedThird := by
  unfold Obligations.WrongLengthIsReportedThird
  constructor
  · intro s hd hl
    have hok := dimsOk_of_dims hd
    exact ⟨gives_raised (execGetPrimary_len s hok hl), fun hh => gives_raised (execDecode_len s hok hh hl)⟩
  · intro s hlong
    exact ⟨gives_raised ((exec_cntErr s).trans (congrArg _ (s.lengthChecked_of_gt _ hlong))),
      gives_raised ((exec_errPos s).trans (congrArg _ (s.lengthChecked_of_gt _ hlong)))⟩

end
